-- ==== Sys2Proof/Word.lean ====
section
/-! DEFINITION. The words of the block: every byte of either wire format is 8 bits, a voltage is 16 bits, an
input event word is 11 bits (R6, R58). All values are unsigned (R7). -/

namespace Sys2Proof

/-- A byte, bit 7 the most significant (R7). -/
abbrev Byte := BitVec 8

/-- A voltage in `voltage_mv` (R6, R10). -/
abbrev Word16 := BitVec 16

/-- The identifier of an egress frame (R11). -/
abbrev Word32 := BitVec 32

/-- The input event word: bit 10 `rx_err`, bit 9 `rx_eos`, bit 8 `rx_valid`, bits 7 to 0 `rx_data` (R58). -/
abbrev EventWord := BitVec 11

end Sys2Proof
end

