-- ==== Sys2Proof/Config.lean ====
section
/-! DEFINITION. The constants of R5, each under a name of its own, and the one open parameter of the block,
`EGRESS_ID_ORDER` (R4, D22). The literals of R5 were not audited against the original repository (U11, log 20):
the rules name these constants, so a correction of a value is made here. -/

namespace Sys2Proof

/-- The two values of `EGRESS_ID_ORDER` (R4). -/
inductive IdOrder where
  | big
  | little
  deriving DecidableEq, Repr, Inhabited

namespace Config

/-- `SYNC`, first byte of every ingest packet (R5). -/
def sync : Byte := 0xAA#8

/-- `PKT_LEN`, bytes in an ingest packet (R5). -/
abbrev pktLen : Nat := 5

/-- `CK_SPAN`, bytes summed by the checksum; also the index of the checksum byte in a packet (R5, R50). -/
abbrev ckSpan : Nat := 4

/-- `TEMP_CRIT`: a temperature above it is critical (R5). -/
def tempCrit : Byte := 60#8

/-- `VOLT_WARN`: a voltage below it is a warning (R5). -/
def voltWarn : Word16 := 3100#16

/-- `EGRESS_ID`, identifier of every egress frame (R5). -/
def egressId : Word32 := 0x00000100#32

/-- `EGRESS_LEN`, length indicator of every egress frame (R5). -/
def egressLen : Byte := 0x08#8

/-- `PAYLOAD_LEN`, payload bytes of an egress frame (R5). -/
abbrev payloadLen : Nat := 8

/-- `FRAME_LEN`, bytes in a flattened egress frame, 4+1+8 (R5). -/
abbrev frameLen : Nat := 13

/-- `TAG_OK` (R5, R54). -/
def tagOk : Byte := 0x00#8

/-- `TAG_WARN_LOW_VOLT` (R5, R54). -/
def tagWarnLowVolt : Byte := 0x01#8

/-- `TAG_CRIT_TEMP` (R5, R54). -/
def tagCritTemp : Byte := 0x02#8

/-- `EGRESS_ID_ORDER`, the open parameter of the block: "transport-defined byte order" (R4, D22, U1, log 11). It
has no body, so nothing proved of the block depends on which order it is. -/
opaque egressIdOrder : IdOrder

end Config

end Sys2Proof
end

