-- ==== Sys2Proof/Syntax.lean ====
section
/-! DEFINITION. The values the block handles (R10 to R13, R19, R31), the operations of `spec/opcode_table.json`
(one constructor of `Instr` a row), and the inputs the outside can offer. -/

namespace Sys2Proof

/-- A Reading; every combination of the two fields is legal (R10). -/
structure Reading where
  voltageMv : Word16
  tempC : Byte
  deriving DecidableEq, Repr

/-- The three status codes (R12, R54). -/
inductive StatusCode where
  | ok
  | warnLowVolt
  | critTemp
  deriving DecidableEq, Repr

/-- The two ways `DECODE` can fail (R12, R139). -/
inductive DecodeError where
  | syncMismatch
  | checksumMismatch
  deriving DecidableEq, Repr

/-- The result of `DECODE`: a Reading or an error, never both (R80, R82, log 23). -/
inductive DecodeResult where
  | ok (r : Reading)
  | err (e : DecodeError)
  deriving DecidableEq, Repr

/-- Why the block stands halted (R12, R17). -/
inductive HaltCause where
  | none
  | streamClosed
  | transportError
  deriving DecidableEq, Repr

/-- The state register `st` (R13). -/
inductive St where
  | awaitSync
  | accumulate
  | validate
  | halted
  deriving DecidableEq, Repr

/-- The event output: what one step shows the outside (R19). -/
inductive Event where
  | none
  | reading (r : Reading)
  | checksumDrop
  | streamClosed
  | transportError
  deriving DecidableEq, Repr

/-- An ingest packet, byte 0 first on the wire (R11, R50). -/
abbrev IngestPacket := Vector Byte Config.pktLen

/-- An egress frame in its logical form (R11, R52). -/
structure EgressFrame where
  id : Word32
  len : Byte
  payload : Vector Byte Config.payloadLen
  deriving DecidableEq, Repr

/-- An egress frame flattened, byte 0 first (R53). -/
abbrev SerialFrame := Vector Byte Config.frameLen

/-- The input events of the ingest side (R31). -/
inductive RxEvent where
  | byte (b : Byte)
  | eos
  | err
  deriving DecidableEq, Repr

/-- The operations: one constructor per row of `spec/opcode_table.json`. -/
inductive Instr where
  /-- INGEST_PACKET: sync 0xAA, then voltage high, voltage low, temperature, checksum (R50, R51). -/
  | ingestPacket (h l t c : Byte)
  /-- EGRESS_FRAME_BIG: the serial frame with the identifier's most significant byte first (R53). -/
  | egressFrameBig (h l t : Byte) (status : StatusCode)
  /-- EGRESS_FRAME_LITTLE: the serial frame with the identifier's least significant byte first (R53). -/
  | egressFrameLittle (h l t : Byte) (status : StatusCode)
  /-- TAG_OK (R54). -/
  | tagOk
  /-- TAG_WARN_LOW_VOLT (R54). -/
  | tagWarnLowVolt
  /-- TAG_CRIT_TEMP (R54). -/
  | tagCritTemp
  /-- TAG_RESERVED: a status tag 0x03 to 0xFF at a raw port (R62, U2). -/
  | tagReserved (s : Byte)
  /-- CHECKSUM of four bytes, in packet order (R70). -/
  | checksum (b0 b1 b2 b3 : Byte)
  /-- SPLIT16 (R71). -/
  | split16 (v : Word16)
  /-- ENCODE of a Reading (R72). -/
  | encode (voltageMv : Word16) (tempC : Byte)
  /-- DECODE of a 5-byte word (R80). -/
  | decode (p0 p1 p2 p3 p4 : Byte)
  /-- CLASSIFY (R110). -/
  | classify (voltageMv : Word16) (tempC : Byte)
  /-- BUILD from a Reading and a StatusCode (R120). -/
  | build (voltageMv : Word16) (tempC : Byte) (status : StatusCode)
  /-- SERIALIZE of any logical frame (R125). -/
  | serialize (id : Word32) (len : Byte) (payload : Vector Byte Config.payloadLen)
  /-- RX_SYNC: a byte 0xAA in AWAIT_SYNC (R90). -/
  | rxSync
  /-- RX_SKIP: any other byte in AWAIT_SYNC (R91). -/
  | rxSkip (b : Byte)
  /-- RX_DATA: any byte in ACCUMULATE (R92, R93). -/
  | rxData (b : Byte)
  /-- VALIDATE: the internal step; its operands are `buf[0..4]` (R94, log 17). -/
  | validate
  /-- RX_EOS: end of stream (R97). -/
  | rxEos
  /-- RX_ERR: transport error (R98). -/
  | rxErr
  /-- RX_NONE: no event offered (R58). -/
  | rxNone
  /-- RX_REFUSED: an event word offered in VALIDATE or HALTED (R99). -/
  | rxRefused (w : EventWord)
  /-- RESET (R103). -/
  | reset
  deriving DecidableEq, Repr

/-- The ports on which an operand word or a format word can be presented: one per function unit (R57, D3) and one
per wire format (R50, R53, R54). -/
inductive Port where
  | pkt
  | frmBig
  | frmLittle
  | tag
  | checksum
  | split16
  | encode
  | decode
  | classify
  | build
  | serialize
  deriving DecidableEq, Repr

/-- What the outside can offer (R31, R57, R103, log 1). A port word is a list of bytes, the most significant byte
of the operand word first, which for the wire formats is byte 0 of the wire (R51, R53, R57). -/
inductive Input where
  | reset
  | event (w : EventWord)
  | word (p : Port) (bytes : List Byte)
  deriving DecidableEq, Repr

/-- Why a port word is no word of its port's format; a word that is not one is refused by this name (log 16). -/
inductive Unreadable where
  /-- The word has not the number of bytes of its port (R38, R57). -/
  | wrongLength
  /-- Byte 0 of a packet is not the sync byte: "not a packet" (R60). -/
  | notPacket
  /-- Constant bytes or the tag of a serial frame are not those of its format (R53, R63). -/
  | notFrame
  deriving DecidableEq, Repr

end Sys2Proof
end

