-- ==== Sys2Proof/Machine/Operands.lean ====
section
/-! DEFINITION. Operand assembly and the helpers that several units share: byte fields and voltage assembly (R55,
R56, R71), the checksum (R70), the status tags (R54), the event word (R58), and bytes of a number (log 14). -/

namespace Sys2Proof.Machine

/-- `trunc8`: the low 8 bits of an unsigned integer (R8). -/
def trunc8 (n : Nat) : Byte := BitVec.ofNat 8 n

/-- `CHECKSUM`: the exact sum of four bytes, cut to its low 8 bits (R70). -/
def checksum (b0 b1 b2 b3 : Byte) : Byte :=
  trunc8 (b0.toNat + b1.toNat + b2.toNat + b3.toNat)

/-- `SPLIT16`: high byte, then low byte (R71). -/
def split16 (v : Word16) : Byte × Byte :=
  (v.extractLsb' 8 8, v.extractLsb' 0 8)

/-- The voltage of a packet: `(hi << 8) | lo`, each byte zero-extended first (R55). -/
def assemble16 (hi lo : Byte) : Word16 :=
  (hi.setWidth 16 <<< 8) ||| lo.setWidth 16

/-- Four bytes of a 32-bit word, most significant first. -/
def split32 (v : Word32) : Byte × Byte × Byte × Byte :=
  (v.extractLsb' 24 8, v.extractLsb' 16 8, v.extractLsb' 8 8, v.extractLsb' 0 8)

/-- A 32-bit word from four bytes, most significant first. -/
def assemble32 (b3 b2 b1 b0 : Byte) : Word32 :=
  (b3.setWidth 32 <<< 24) ||| (b2.setWidth 32 <<< 16) ||| (b1.setWidth 32 <<< 8) ||| b0.setWidth 32

/-- The 8-bit tag of a StatusCode (R54). -/
def tagOf : StatusCode → Byte
  | .ok => Config.tagOk
  | .warnLowVolt => Config.tagWarnLowVolt
  | .critTemp => Config.tagCritTemp

/-- The StatusCode of a tag byte; `none` for the reserved tags 0x03 to 0xFF (R54, R62). -/
def statusOf (s : Byte) : Option StatusCode :=
  if s = Config.tagOk then some .ok
  else if s = Config.tagWarnLowVolt then some .warnLowVolt
  else if s = Config.tagCritTemp then some .critTemp
  else none

/-- The event an event word carries, by the priority ERR, EOS, BYTE; `none` where all three bits are 0 (R58).
A word with several of the bits set is that one event whole: what the spec leaves open, whether a lower EOS is still
offered after it, the model decides against (log 24). -/
def eventOf (w : EventWord) : Option RxEvent :=
  if w.getLsbD 10 then some .err
  else if w.getLsbD 9 then some .eos
  else if w.getLsbD 8 then some (.byte (w.extractLsb' 0 8))
  else none

/-- The event word of an event, ignored bits 0 (R58, R65, log 18). -/
def eventWord : RxEvent → EventWord
  | .byte b => 0x100#11 ||| b.setWidth 11
  | .eos => 0x200#11
  | .err => 0x400#11

/-- The `n` low bytes of a number, most significant first (R57: the first-named operand is most significant). -/
def bytesOf : Nat → Nat → List Byte
  | 0, _ => []
  | n + 1, w => trunc8 (w / 256 ^ n) :: bytesOf n w

end Sys2Proof.Machine
end

