-- ==== Sys2Proof/WellFormed.lean ====
section
/-! DEFINITION. Which operations are well formed (the side conditions a mask cannot express), and in which states
`st` selects them (R59). -/

namespace Sys2Proof

/-- The side conditions on operands: a valid packet carries the checksum of its first four bytes (R51); a reserved
tag is 0x03 to 0xFF (R62); a skipped byte is not the sync byte (R91). Every other operand value is legal (R73,
R83, R112, R123). -/
def wellFormed : Instr → Bool
  | .ingestPacket h l t c => c == Machine.checksum Config.sync h l t
  | .egressFrameBig _ _ _ _ => true
  | .egressFrameLittle _ _ _ _ => true
  | .tagOk => true
  | .tagWarnLowVolt => true
  | .tagCritTemp => true
  | .tagReserved s => (Machine.statusOf s).isNone
  | .checksum _ _ _ _ => true
  | .split16 _ => true
  | .encode _ _ => true
  | .decode _ _ _ _ _ => true
  | .classify _ _ => true
  | .build _ _ _ => true
  | .serialize _ _ _ => true
  | .rxSync => true
  | .rxSkip b => b != Config.sync
  | .rxData _ => true
  | .validate => true
  | .rxEos => true
  | .rxErr => true
  | .rxNone => true
  | .rxRefused _ => true
  | .reset => true

/-- In which states an operation can be selected: the events of the resynchroniser by R59, the internal step in
VALIDATE only (R94), everything else in every state (R23, R103, R162). -/
def enabledIn (st : St) : Instr → Bool
  | .ingestPacket _ _ _ _ => true
  | .egressFrameBig _ _ _ _ => true
  | .egressFrameLittle _ _ _ _ => true
  | .tagOk => true
  | .tagWarnLowVolt => true
  | .tagCritTemp => true
  | .tagReserved _ => true
  | .checksum _ _ _ _ => true
  | .split16 _ => true
  | .encode _ _ => true
  | .decode _ _ _ _ _ => true
  | .classify _ _ => true
  | .build _ _ _ => true
  | .serialize _ _ _ => true
  | .rxSync => st == .awaitSync
  | .rxSkip _ => st == .awaitSync
  | .rxData _ => st == .accumulate
  | .validate => st == .validate
  | .rxEos => st == .awaitSync || st == .accumulate
  | .rxErr => st == .awaitSync || st == .accumulate
  | .rxNone => st == .awaitSync || st == .accumulate
  | .rxRefused _ => st == .validate || st == .halted
  | .reset => true

end Sys2Proof
end

