-- ==== Sys2Proof/Decode.lean ====
section
/-! DEFINITION. Which operation an input selects. `st` is a mode that changes decoding (R59); a word on an operand
or format port is read in its port's layout (R50, R53, R54, R57). The encoder follows, written from the same
layouts, and then the table's own numbering of bits, for a bare word with no port (log 14). -/

namespace Sys2Proof

/-- The operation an event word selects in a state: R59's table, over the priority of R58. -/
def decodeEvent (st : St) (w : EventWord) : Instr :=
  match st with
  | .awaitSync =>
    match Machine.eventOf w with
    | some (.byte b) => if b = Config.sync then .rxSync else .rxSkip b
    | some .eos => .rxEos
    | some .err => .rxErr
    | none => .rxNone
  | .accumulate =>
    match Machine.eventOf w with
    | some (.byte b) => .rxData b
    | some .eos => .rxEos
    | some .err => .rxErr
    | none => .rxNone
  | .validate => .rxRefused w
  | .halted => .rxRefused w

/-- How many bytes a word of each port has (R38, R50, R53, R54, R57). -/
def portBytes : Port → Nat
  | .pkt => Config.pktLen
  | .frmBig => Config.frameLen
  | .frmLittle => Config.frameLen
  | .tag => 1
  | .checksum => Config.ckSpan
  | .split16 => 2
  | .encode => 3
  | .decode => Config.pktLen
  | .classify => 3
  | .build => 4
  | .serialize => Config.frameLen

/-- Format PKT: byte 0 is the sync byte. A packet whose checksum is wrong is still a packet, a corrupt one, and is
read as one (R51, R60, R61, log 15). -/
def decodePkt : List Byte → Except Unreadable Instr
  | [s, h, l, t, c] => if s = Config.sync then .ok (.ingestPacket h l t c) else .error .notPacket
  | _ => .error .wrongLength

/-- Format FRM, flattened: the identifier in the given order, the length, three data bytes, one of the three tags,
four zeros; nothing else is a frame of this block (R53, R63). -/
def decodeFrm (order : IdOrder) : List Byte → Except Unreadable Instr
  | [i0, i1, i2, i3, n, h, l, t, s, z0, z1, z2, z3] =>
    let id := match order with
      | .big => Machine.assemble32 i0 i1 i2 i3
      | .little => Machine.assemble32 i3 i2 i1 i0
    if id = Config.egressId ∧ n = Config.egressLen ∧ [z0, z1, z2, z3] = [0#8, 0#8, 0#8, 0#8] then
      match Machine.statusOf s with
      | some c =>
        match order with
        | .big => .ok (.egressFrameBig h l t c)
        | .little => .ok (.egressFrameLittle h l t c)
      | none => .error .notFrame
    else .error .notFrame
  | _ => .error .wrongLength

/-- Format TAG: one byte (R54, R62). -/
def decodeTag : List Byte → Except Unreadable Instr
  | [s] =>
    match Machine.statusOf s with
    | some .ok => .ok .tagOk
    | some .warnLowVolt => .ok .tagWarnLowVolt
    | some .critTemp => .ok .tagCritTemp
    | none => .ok (.tagReserved s)
  | _ => .error .wrongLength

/-- CHECKSUM's operand word (R57). -/
def decodeChecksum : List Byte → Except Unreadable Instr
  | [a, b, c, d] => .ok (.checksum a b c d)
  | _ => .error .wrongLength

/-- SPLIT16's operand word (R57). -/
def decodeSplit16 : List Byte → Except Unreadable Instr
  | [h, l] => .ok (.split16 (Machine.assemble16 h l))
  | _ => .error .wrongLength

/-- ENCODE's operand word (R57). -/
def decodeEncode : List Byte → Except Unreadable Instr
  | [h, l, t] => .ok (.encode (Machine.assemble16 h l) t)
  | _ => .error .wrongLength

/-- DECODE's operand word: every 40-bit word is one (R57, R86). -/
def decodeDecode : List Byte → Except Unreadable Instr
  | [a, b, c, d, e] => .ok (.decode a b c d e)
  | _ => .error .wrongLength

/-- CLASSIFY's operand word (R57). -/
def decodeClassify : List Byte → Except Unreadable Instr
  | [h, l, t] => .ok (.classify (Machine.assemble16 h l) t)
  | _ => .error .wrongLength

/-- BUILD's operand word; a reserved tag in it is the row TAG_RESERVED, "refused at a raw BUILD port" (R57, R62,
U2). -/
def decodeBuild : List Byte → Except Unreadable Instr
  | [h, l, t, s] =>
    match Machine.statusOf s with
    | some c => .ok (.build (Machine.assemble16 h l) t c)
    | none => .ok (.tagReserved s)
  | _ => .error .wrongLength

/-- SERIALIZE's operand word: a logical frame, identifier first, `payload[0]` before `payload[7]` (R57). -/
def decodeSerialize : List Byte → Except Unreadable Instr
  | [i3, i2, i1, i0, n, a, b, c, d, e, f, g, h] =>
    .ok (.serialize (Machine.assemble32 i3 i2 i1 i0) n #v[a, b, c, d, e, f, g, h])
  | _ => .error .wrongLength

/-- A word on a port, read in that port's layout. -/
def decodeWord (p : Port) (bytes : List Byte) : Except Unreadable Instr :=
  match p with
  | .pkt => decodePkt bytes
  | .frmBig => decodeFrm .big bytes
  | .frmLittle => decodeFrm .little bytes
  | .tag => decodeTag bytes
  | .checksum => decodeChecksum bytes
  | .split16 => decodeSplit16 bytes
  | .encode => decodeEncode bytes
  | .decode => decodeDecode bytes
  | .classify => decodeClassify bytes
  | .build => decodeBuild bytes
  | .serialize => decodeSerialize bytes

/-- The operation an input selects in a state: total, rejecting by name (R59). -/
def decode (st : St) (x : Input) : Except Unreadable Instr :=
  match x with
  | .reset => .ok .reset
  | .event w => .ok (decodeEvent st w)
  | .word p bytes => decodeWord p bytes

/-- The bytes of a serial frame of this block in the given order (R53). -/
def frmBytes (order : IdOrder) (h l t : Byte) (c : StatusCode) : List Byte :=
  let (i3, i2, i1, i0) := Machine.split32 Config.egressId
  let id := match order with
    | .big => [i3, i2, i1, i0]
    | .little => [i0, i1, i2, i3]
  id ++ [Config.egressLen, h, l, t, Machine.tagOf c, 0#8, 0#8, 0#8, 0#8]

/-- The two bytes of a 16-bit operand, high byte first (R57). -/
def bytes16 (v : Word16) : List Byte :=
  [(Machine.split16 v).1, (Machine.split16 v).2]

/-- The four bytes of a 32-bit operand, most significant first (R57). -/
def bytes32 (v : Word32) : List Byte :=
  let (i3, i2, i1, i0) := Machine.split32 v
  [i3, i2, i1, i0]

/-- The input that selects an operation, from the same layouts; `none` for the internal step, which consumes no
input (R94). Bits the spec calls ignored are 0 (R58, log 18). A reserved tag stands on the tag port. -/
def encode : Instr → Option Input
  | .ingestPacket h l t c => some (.word .pkt [Config.sync, h, l, t, c])
  | .egressFrameBig h l t c => some (.word .frmBig (frmBytes .big h l t c))
  | .egressFrameLittle h l t c => some (.word .frmLittle (frmBytes .little h l t c))
  | .tagOk => some (.word .tag [Config.tagOk])
  | .tagWarnLowVolt => some (.word .tag [Config.tagWarnLowVolt])
  | .tagCritTemp => some (.word .tag [Config.tagCritTemp])
  | .tagReserved s => some (.word .tag [s])
  | .checksum a b c d => some (.word .checksum [a, b, c, d])
  | .split16 v => some (.word .split16 (bytes16 v))
  | .encode v t => some (.word .encode (bytes16 v ++ [t]))
  | .decode a b c d e => some (.word .decode [a, b, c, d, e])
  | .classify v t => some (.word .classify (bytes16 v ++ [t]))
  | .build v t c => some (.word .build (bytes16 v ++ [t, Machine.tagOf c]))
  | .serialize id n p => some (.word .serialize (bytes32 id ++ n :: p.toList))
  | .rxSync => some (.event (Machine.eventWord (.byte Config.sync)))
  | .rxSkip b => some (.event (Machine.eventWord (.byte b)))
  | .rxData b => some (.event (Machine.eventWord (.byte b)))
  | .validate => none
  | .rxEos => some (.event (Machine.eventWord .eos))
  | .rxErr => some (.event (Machine.eventWord .err))
  | .rxNone => some (.event 0#11)
  | .rxRefused w => some (.event w)
  | .reset => some .reset

/-- Whether an input stands in the ingest stream, and so waits while the block takes no event (R99): an event
word, or a packet on the wire, which is five bytes of that stream (R32, R34). -/
def isStream : Input → Bool
  | .reset => false
  | .event _ => true
  | .word p _ => p == .pkt

/-- The input a bare word of the table stands for (log 14). The table's rows share widths, so the word's width and
pattern choose the port: the narrowest format that fits, and where two ports take every word of a width, one of
them (ENCODE before CLASSIFY). A one-bit word is the RESET input. -/
def tableInput (nbits w : Nat) : Option Input :=
  match nbits with
  | 1 => if w = 1 then some .reset else none
  | 8 => some (.word .tag (Machine.bytesOf (portBytes .tag) w))
  | 11 => some (.event (BitVec.ofNat 11 w))
  | 16 =>
    if w < 2048 then some (.event (BitVec.ofNat 11 w))
    else some (.word .split16 (Machine.bytesOf (portBytes .split16) w))
  | 24 => some (.word .encode (Machine.bytesOf (portBytes .encode) w))
  | 32 =>
    if (Machine.statusOf (Machine.trunc8 w)).isSome then some (.word .build (Machine.bytesOf (portBytes .build) w))
    else some (.word .checksum (Machine.bytesOf (portBytes .checksum) w))
  | 40 =>
    let bytes := Machine.bytesOf (portBytes .pkt) w
    if bytes.head? = some Config.sync then some (.word .pkt bytes)
    else some (.word .decode bytes)
  | 104 =>
    let bytes := Machine.bytesOf (portBytes .frmBig) w
    if (decodeFrm .big bytes).isOk then some (.word .frmBig bytes)
    else if (decodeFrm .little bytes).isOk then some (.word .frmLittle bytes)
    else some (.word .serialize bytes)
  | _ => none

/-- The operation the decoder reads from a bare word of the table, in the state after reset. -/
def decodeTableWord (nbits w : Nat) : Option Instr :=
  match tableInput nbits w with
  | some x => (decode .awaitSync x).toOption
  | none => none

end Sys2Proof
end

