-- ==== Sys2Proof/Machine/State.lean ====
section
/-! DEFINITION. The state as plain data: the registers of the stream resynchroniser, which are all the state the
block has (R13 to R17), its event output (R19), and the model's record of what goes out and of what the outside
offers (logs 1, 4, 5, 10). -/

namespace Sys2Proof.Machine

/-- One entry of the output trace: an event other than NONE, or a frame handed to the sink (R19, R43, log 4). -/
inductive Output where
  | event (e : Event)
  | frame (f : EgressFrame)
  deriving DecidableEq, Repr

/-- The result of one free-standing call of a unit, or of one reading of a format word (R23, R30, logs 5 to 8). -/
inductive UnitResult where
  | checksum (b : Byte)
  | split16 (hi lo : Byte)
  | encoded (p : IngestPacket)
  | decoded (r : DecodeResult)
  | classified (c : StatusCode)
  | built (f : EgressFrame)
  | serialized (w : SerialFrame)
  | frameRead (order : IdOrder) (f : EgressFrame)
  | tagRead (c : StatusCode)
  deriving DecidableEq, Repr

/-- Everything the spec gives the machine, and the model's own fields. -/
structure State where
  /-- The state register (R13). -/
  st : St
  /-- The byte counter: bytes of the current window, values 0 to 5 (R14, U7). -/
  cnt : Fin (Config.pktLen + 1)
  /-- The accumulation buffer, five byte registers (R15). -/
  buf : Vector Byte Config.pktLen
  /-- The sticky terminal flag `halt_cause` (R17). -/
  haltCause : HaltCause
  /-- The event output of the latest step (R19). -/
  evOut : Event
  /-- The model's record of events and frames, oldest first (R19, log 4). -/
  trace : List Output
  /-- The model's record of the units' results, oldest first (log 5). -/
  unitOut : List UnitResult
  /-- What the outside offers and the block has not taken (R31, R65, log 1). -/
  script : List Input
  /-- The sink's answers to the coming offers of a frame, one an offer (R135, log 10). -/
  sinkReady : List Bool
  /-- What the sink answers to every offer after those: `false` is a sink that never becomes ready (R135, U9,
  log 10). -/
  sinkAfter : Bool
  deriving DecidableEq, Repr

/-- Why the machine stops with a fault. -/
inductive Fault where
  /-- Raised by RX_REFUSED in HALTED: no step is enabled there but RESET (R99, U5, log 3). Safe: the hardware
  takes no step either. -/
  | halted
  /-- Raised by the meaning of an event of the resynchroniser in a state in which R59 does not select it (log 12).
  Safe: it stops where the spec gives the operation no effect; no step of the machine raises it. -/
  | notEnabled
  /-- Raised by RX_DATA when `cnt` is already 5, which R18 excludes: there is no `buf[5]` (U7, log 13). Safe. -/
  | windowOverrun
  deriving DecidableEq, Repr

/-- Why the machine refuses an input. -/
inductive Refusal where
  /-- Raised by `exec` for an operation without a meaning; there is none left. Safe. -/
  | notModelled (mnemonic : String)
  /-- Raised by the step when a port word is no word of its port's format (R60, R63, log 16). Safe. -/
  | unreadable (why : Unreadable)
  deriving DecidableEq, Repr

/-- The machine right after reset (R22). The spec gives `buf` no value and lets a model take zeros (log 2); the
model's own fields start empty (log 19). -/
def State.reset : State where
  st := .awaitSync
  cnt := 0
  buf := Vector.replicate Config.pktLen 0#8
  haltCause := .none
  evOut := .none
  trace := []
  unitOut := []
  script := []
  sinkReady := []
  sinkAfter := true

end Sys2Proof.Machine
end

