-- ==== Sys2Proof/Machine/Ops.lean ====
section
/-! DEFINITION. The named operations over the state: the pseudocode primitives of R8, the two ways a failure is
taken (R147), the return from one (R148), and the taking of inputs (R31, R99, log 1). -/

namespace Sys2Proof.Machine

/-- `Report(e)`: put `e` on the event output; every event but NONE enters the trace (R8, R19, log 4). -/
def report (e : Event) (s : State) : State :=
  { s with
    evOut := e
    trace := match e with
      | .none => s.trace
      | .reading _ => s.trace ++ [.event e]
      | .checksumDrop => s.trace ++ [.event e]
      | .streamClosed => s.trace ++ [.event e]
      | .transportError => s.trace ++ [.event e] }

/-- `Emit(f)`: hand a frame to the sink (R8, R33). -/
def emit (f : EgressFrame) (s : State) : State :=
  { s with trace := s.trace ++ [.frame f] }

/-- Record the result of a unit's call (log 5). -/
def answer (r : UnitResult) (s : State) : State :=
  { s with unitOut := s.unitOut ++ [r] }

/-- `buf[cnt] <- b` and `cnt <- cnt + 1`, for a `cnt` that indexes the buffer (R14, R16). -/
def storeByte (b : Byte) (s : State) (h : s.cnt.val < Config.pktLen) : State :=
  { s with
    buf := s.buf.set s.cnt.val b h
    cnt := ⟨s.cnt.val + 1, Nat.succ_lt_succ h⟩ }

/-- `st <- S` (R8). -/
def goTo (st : St) (s : State) : State :=
  { s with st := st }

/-- Return to `AWAIT_SYNC` with an empty window; `buf` keeps what it holds (R16, R94, R148). -/
def resume (s : State) : State :=
  { s with st := .awaitSync, cnt := 0 }

/-- A recoverable failure in the stream: the window is given up whole, one `CHECKSUM_DROP`, and the block reads on
(R96, R102, R147). -/
def dropWindow (s : State) : State :=
  resume (report .checksumDrop s)

/-- The event a halt is reported with (R97, R98). -/
def haltEvent : HaltCause → Event
  | .none => .none
  | .streamClosed => .streamClosed
  | .transportError => .transportError

/-- A fatal failure: `halt_cause` set, the window abandoned, `HALTED`, the event reported; nothing is saved (R97,
R98, R147). -/
def raiseFatal (c : HaltCause) (s : State) : State :=
  report (haltEvent c) { s with haltCause := c, cnt := 0, st := .halted }

/-- The RESET input: `AWAIT_SYNC`, an empty window, no cause, no event; `buf` keeps what it holds, and frames
already handed over are not recalled (R103, R160, R162). -/
def resetBlock (s : State) : State :=
  report .none { s with st := .awaitSync, cnt := 0, haltCause := .none }

/-- Does the sink take the frame now offered? (R135, U9, log 10) -/
def sinkTakes (s : State) : Bool :=
  s.sinkReady.headD s.sinkAfter

/-- The sink has answered one offer; its answer after the listed ones stands for good (log 10). -/
def sinkAnswered (s : State) : State :=
  { s with sinkReady := s.sinkReady.tail }

/-- The five `BYTE` events of a packet, byte 0 first (R32, R34, R66). -/
def packetEvents (p : IngestPacket) : List Input :=
  p.toList.map fun b => .event (eventWord (.byte b))

/-- A chunk read from the transport stands before everything offered later (R32, R101, log 6). -/
def offerChunk (p : IngestPacket) (s : State) : State :=
  { s with script := packetEvents p ++ s.script }

/-- The first input that does not stand in the ingest stream, and the script without it: what can still be taken
while the event port is not ready (R58, R99, log 1). -/
def firstAside : List Input → Option (Input × List Input)
  | [] => none
  | x :: rest =>
    if isStream x then
      match firstAside rest with
      | some (y, others) => some (y, x :: others)
      | none => none
    else some (x, rest)

/-- The input taken next and the script that is left; `none` where no input is taken: nothing is offered, or
`VALIDATE` is due before the next event, or the block stands in `HALTED` with only stream events offered (R31, R94,
R99, R146). -/
def nextInput (s : State) : Option (Input × List Input) :=
  match s.st, s.script with
  | _, [] => none
  | .awaitSync, x :: rest => some (x, rest)
  | .accumulate, x :: rest => some (x, rest)
  | .validate, x :: rest => if isStream x then none else some (x, rest)
  | .halted, x :: rest => firstAside (x :: rest)

/-- The event word that stands offered and untaken at the event port, 0 for none (R58, R99). -/
def offeredWord : List Input → EventWord
  | .event w :: _ => w
  | .word .pkt (b :: _) :: _ => eventWord (.byte b)
  | _ => 0#11

/-- The operation done where no input is taken: the internal step, a refused event, or waiting (R94, R99, R104). -/
def idleInstr (s : State) : Instr :=
  match s.st with
  | .awaitSync => .rxNone
  | .accumulate => .rxNone
  | .validate => .validate
  | .halted => .rxRefused (offeredWord s.script)

/-- The next operation and the state it runs in, its input taken from the script. An event word is taken whole, a
lower-priority condition in it included: the model's choice (log 24). -/
def fetch (s : State) : Except Unreadable (Instr × State) :=
  match nextInput s with
  | some (x, rest) =>
    match decode s.st x with
    | .ok i => .ok (i, { s with script := rest })
    | .error e => .error e
  | none => .ok (idleInstr s, s)

/-- The state with a bare word of the table placed so that the next step takes it: first in the script, and, for
an event word, with the event port ready (log 14). -/
def placeWord (s : State) (nbits w : Nat) : State :=
  match tableInput nbits w with
  | some x =>
    if isStream x then { s with script := x :: s.script, st := .awaitSync }
    else { s with script := x :: s.script }
  | none => s

end Sys2Proof.Machine
end

