-- ==== Sys2Proof/Machine/Flags.lean ====
section
/-! DEFINITION. Conditions and codes. The block has no carry, overflow or condition code (R17); what it has is the
two comparisons of the classifier (R112), and, at ports, the level `halt_cause` and the numeric codes of R13 and
R144 (D14), which appear on neither wire format. -/

namespace Sys2Proof.Machine

/-- `temp_c > 60`, strict, unsigned 8-bit (R110 to R112). -/
def tempCritical (tempC : Byte) : Bool := Config.tempCrit < tempC

/-- `voltage_mv < 3100`, strict, unsigned 16-bit (R110 to R112). -/
def voltageLow (voltageMv : Word16) : Bool := voltageMv < Config.voltWarn

/-- The 2-bit port code of `st` (R13). -/
def stCode : St → BitVec 2
  | .awaitSync => 0#2
  | .accumulate => 1#2
  | .validate => 2#2
  | .halted => 3#2

/-- The 2-bit port code of a DECODE result, 0 for success (R144). -/
def decodeCode : DecodeResult → BitVec 2
  | .ok _ => 0#2
  | .err .syncMismatch => 1#2
  | .err .checksumMismatch => 2#2

/-- The 2-bit port code of `halt_cause` (R144). -/
def haltCode : HaltCause → BitVec 2
  | .none => 0#2
  | .streamClosed => 1#2
  | .transportError => 2#2

/-- The 3-bit port code of an event's kind (R144). -/
def eventKind : Event → BitVec 3
  | .none => 0#3
  | .reading _ => 1#3
  | .checksumDrop => 2#3
  | .streamClosed => 3#3
  | .transportError => 4#3

end Sys2Proof.Machine
end

