-- ==== Sys2Proof/Machine/Classifier.lean ====
section
/-! DEFINITION. The safety classifier (`43_safety_classifier.md`). -/

namespace Sys2Proof.Machine

/-- `CLASSIFY(voltage_mv, temp_c)`: temperature first, then voltage (R110, R113). -/
def classify (voltageMv : Word16) (tempC : Byte) : StatusCode :=
  if tempCritical tempC then .critTemp
  else if voltageLow voltageMv then .warnLowVolt
  else .ok

/-- CLASSIFY, called on its own (R110, R116). -/
def execClassify (voltageMv : Word16) (tempC : Byte) (s : State) : Host.Outcome State Fault Refusal :=
  .next (answer (.classified (classify voltageMv tempC)) s)

end Sys2Proof.Machine
end

