-- ==== Sys2Proof/Machine/Codec.lean ====
section
/-! DEFINITION. The codec: CHECKSUM, SPLIT16, ENCODE (`40_packet_encoder.md`) and DECODE (`41_packet_decoder.md`).
All are functions of their operands; a free-standing call records its result and changes nothing else (R23, R76,
R86, log 5). -/

namespace Sys2Proof.Machine

/-- `ENCODE(reading)` (R72). -/
def encodeReading (r : Reading) : IngestPacket :=
  let (hi, lo) := split16 r.voltageMv
  #v[Config.sync, hi, lo, r.tempC, checksum Config.sync hi lo r.tempC]

/-- `DECODE(p)`: sync first, then checksum (R80, R81). -/
def decodePacket (p : IngestPacket) : DecodeResult :=
  if p[0] ≠ Config.sync then .err .syncMismatch
  else if checksum p[0] p[1] p[2] p[3] ≠ p[Config.ckSpan] then .err .checksumMismatch
  else .ok { voltageMv := assemble16 p[1] p[2], tempC := p[3] }

/-- CHECKSUM (R70). -/
def execChecksum (b0 b1 b2 b3 : Byte) (s : State) : Host.Outcome State Fault Refusal :=
  .next (answer (.checksum (checksum b0 b1 b2 b3)) s)

/-- SPLIT16 (R71). -/
def execSplit16 (v : Word16) (s : State) : Host.Outcome State Fault Refusal :=
  .next (answer (.split16 (split16 v).1 (split16 v).2) s)

/-- ENCODE (R72, R73). -/
def execEncode (voltageMv : Word16) (tempC : Byte) (s : State) : Host.Outcome State Fault Refusal :=
  .next (answer (.encoded (encodeReading { voltageMv := voltageMv, tempC := tempC })) s)

/-- DECODE (R80 to R86): the errors are results, not traps. -/
def execDecode (p0 p1 p2 p3 p4 : Byte) (s : State) : Host.Outcome State Fault Refusal :=
  .next (answer (.decoded (decodePacket #v[p0, p1, p2, p3, p4])) s)

end Sys2Proof.Machine
end

