-- ==== Sys2Proof/Machine/Marshaller.lean ====
section
/-! DEFINITION. The payload marshaller: BUILD and SERIALIZE (`44_payload_marshaller.md`). -/

namespace Sys2Proof.Machine

/-- `BUILD(reading, status)`: constants, the two voltage bytes, the temperature, the tag, four zeros (R120, R121). It
does not check that the status is the Reading's (R123). -/
def build (r : Reading) (status : StatusCode) : EgressFrame :=
  let (hi, lo) := split16 r.voltageMv
  { id := Config.egressId
    len := Config.egressLen
    payload := #v[hi, lo, r.tempC, tagOf status, 0x00#8, 0x00#8, 0x00#8, 0x00#8] }

/-- `SERIALIZE(f, order)`: identifier in the order, length, payload (R125, R126). -/
def serialize (f : EgressFrame) (order : IdOrder) : SerialFrame :=
  let (i3, i2, i1, i0) := split32 f.id
  match order with
  | .big => #v[i3, i2, i1, i0] ++ #v[f.len] ++ f.payload
  | .little => #v[i0, i1, i2, i3] ++ #v[f.len] ++ f.payload

/-- BUILD, called on its own (R120, R127). -/
def execBuild (voltageMv : Word16) (tempC : Byte) (status : StatusCode) (s : State) :
    Host.Outcome State Fault Refusal :=
  .next (answer (.built (build { voltageMv := voltageMv, tempC := tempC } status)) s)

/-- SERIALIZE of any frame, in the block's own `EGRESS_ID_ORDER` (R125, log 11). -/
def execSerialize (id : Word32) (len : Byte) (payload : Vector Byte Config.payloadLen) (s : State) :
    Host.Outcome State Fault Refusal :=
  .next (answer (.serialized (serialize { id := id, len := len, payload := payload } Config.egressIdOrder)) s)

end Sys2Proof.Machine
end

