-- ==== Sys2Proof/Machine/Formats.lean ====
section
/-! DEFINITION. The format rows of the table: what presenting a word of a wire format or a tag does. The spec gives
these rows a layout and a validity, not an effect; logs 6, 7 and 8 name what the model does. -/

namespace Sys2Proof.Machine

/-- INGEST_PACKET: the packet stands on the ingest wire, which is five `BYTE` events of the stream, byte 0 first
(R32, R34, R50, R66, log 6). -/
def execIngestPacket (h l t c : Byte) (s : State) : Host.Outcome State Fault Refusal :=
  .next (offerChunk #v[Config.sync, h, l, t, c] s)

/-- The logical frame that a serial frame's three data bytes and tag stand for (R52, R53). -/
def frameOf (h l t : Byte) (status : StatusCode) : EgressFrame :=
  build { voltageMv := assemble16 h l, tempC := t } status

/-- EGRESS_FRAME_BIG: the serial form, read as the logical frame it stands for (R52, R53, R164, log 7). -/
def execEgressFrameBig (h l t : Byte) (status : StatusCode) (s : State) : Host.Outcome State Fault Refusal :=
  .next (answer (.frameRead .big (frameOf h l t status)) s)

/-- EGRESS_FRAME_LITTLE: the same in the other order (R52, R53, R164, log 7). -/
def execEgressFrameLittle (h l t : Byte) (status : StatusCode) (s : State) : Host.Outcome State Fault Refusal :=
  .next (answer (.frameRead .little (frameOf h l t status)) s)

/-- TAG_OK: the tag byte is the status `OK` (R54, log 8). -/
def execTagOk (s : State) : Host.Outcome State Fault Refusal :=
  .next (answer (.tagRead .ok) s)

/-- TAG_WARN_LOW_VOLT: the tag byte is the status `WARN_LOW_VOLT` (R54, log 8). -/
def execTagWarnLowVolt (s : State) : Host.Outcome State Fault Refusal :=
  .next (answer (.tagRead .warnLowVolt) s)

/-- TAG_CRIT_TEMP: the tag byte is the status `CRIT_TEMP` (R54, log 8). -/
def execTagCritTemp (s : State) : Host.Outcome State Fault Refusal :=
  .next (answer (.tagRead .critTemp) s)

/-- TAG_RESERVED: the raw port refuses the operation, which "produces nothing and changes nothing": no frame, no
result, no register (R62, U2, D19, log 8). The block goes on. -/
def execTagReserved (_tag : Byte) (s : State) : Host.Outcome State Fault Refusal :=
  .next s

end Sys2Proof.Machine
end

