-- ==== Sys2Proof/Machine/Resync.lean ====
section
/-! DEFINITION. The stream resynchroniser (`42_stream_resync.md`) and the pipeline's VALIDATE step
(`45_pipeline.md`). A meaning applies in the states its rule names; elsewhere R59 does not select it (log 12). -/

namespace Sys2Proof.Machine

/-- RX_SYNC (R90): the byte is recorded as byte 0, and the window is open. -/
def execRxSync (s : State) : Host.Outcome State Fault Refusal :=
  match s.st with
  | .awaitSync =>
    .next (report .none { s with buf := s.buf.set 0 Config.sync, cnt := 1, st := .accumulate })
  | .accumulate => .fault .notEnabled
  | .validate => .fault .notEnabled
  | .halted => .fault .notEnabled

/-- RX_SKIP (R91): a byte that is not the sync byte is consumed and lost. -/
def execRxSkip (b : Byte) (s : State) : Host.Outcome State Fault Refusal :=
  match s.st with
  | .awaitSync => if b = Config.sync then .fault .notEnabled else .next (report .none s)
  | .accumulate => .fault .notEnabled
  | .validate => .fault .notEnabled
  | .halted => .fault .notEnabled

/-- RX_DATA (R92, R93): the byte is stored unexamined; the fifth completes the window. -/
def execRxData (b : Byte) (s : State) : Host.Outcome State Fault Refusal :=
  match s.st with
  | .accumulate =>
    if h : s.cnt.val < Config.pktLen then
      if s.cnt.val + 1 = Config.pktLen then .next (report .none (goTo .validate (storeByte b s h)))
      else .next (report .none (storeByte b s h))
    else .fault .windowOverrun
  | .awaitSync => .fault .notEnabled
  | .validate => .fault .notEnabled
  | .halted => .fault .notEnabled

/-- The pipeline's success arm: classify, build, report, emit, return (R95, R131). While the sink does not take the
frame the step is not finished and the block stays where it is, for ever if the sink never does (R135, U9, log 10). -/
def deliver (r : Reading) (s : State) : State :=
  if sinkTakes s then
    resume (emit (build r (classify r.voltageMv r.tempC)) (report (.reading r) (sinkAnswered s)))
  else sinkAnswered s

/-- VALIDATE (R94, R95, R96, R102, R131): the internal step over a complete window. -/
def execValidate (s : State) : Host.Outcome State Fault Refusal :=
  match s.st with
  | .validate =>
    match decodePacket s.buf with
    | .ok r => .next (deliver r s)
    | .err .checksumMismatch => .next (dropWindow s)
    | .err .syncMismatch => .next (dropWindow s)
  | .awaitSync => .fault .notEnabled
  | .accumulate => .fault .notEnabled
  | .halted => .fault .notEnabled

/-- RX_EOS (R97, R142). -/
def execRxEos (s : State) : Host.Outcome State Fault Refusal :=
  match s.st with
  | .awaitSync => .next (raiseFatal .streamClosed s)
  | .accumulate => .next (raiseFatal .streamClosed s)
  | .validate => .fault .notEnabled
  | .halted => .fault .notEnabled

/-- RX_ERR (R98, R143). -/
def execRxErr (s : State) : Host.Outcome State Fault Refusal :=
  match s.st with
  | .awaitSync => .next (raiseFatal .transportError s)
  | .accumulate => .next (raiseFatal .transportError s)
  | .validate => .fault .notEnabled
  | .halted => .fault .notEnabled

/-- RX_NONE: no event, no step, the state held (R31, R58, R104, log 9). -/
def execRxNone (s : State) : Host.Outcome State Fault Refusal :=
  .next s

/-- RX_REFUSED (R99): in VALIDATE the event is not consumed and waits; HALTED has no successor under any input event
(U5, logs 3, 22). -/
def execRxRefused (_w : EventWord) (s : State) : Host.Outcome State Fault Refusal :=
  match s.st with
  | .validate => .next s
  | .halted => .fault .halted
  | .awaitSync => .fault .notEnabled
  | .accumulate => .fault .notEnabled

/-- RESET (R103): in every state. -/
def execReset (s : State) : Host.Outcome State Fault Refusal :=
  .next (resetBlock s)

end Sys2Proof.Machine
end

