-- ==== Sys2Proof/Machine/Dispatch.lean ====
section
/-! DEFINITION. One arm per constructor of Instr. -/

namespace Sys2Proof.Machine

def exec (i : Instr) (s : State) : Host.Outcome State Fault Refusal :=
  match i with
  -- wire formats and tags (30_encoding.md)
  | .ingestPacket h l t c => Sys2Proof.Machine.execIngestPacket h l t c s
  | .egressFrameBig h l t status => Sys2Proof.Machine.execEgressFrameBig h l t status s
  | .egressFrameLittle h l t status => Sys2Proof.Machine.execEgressFrameLittle h l t status s
  | .tagOk => Sys2Proof.Machine.execTagOk s
  | .tagWarnLowVolt => Sys2Proof.Machine.execTagWarnLowVolt s
  | .tagCritTemp => Sys2Proof.Machine.execTagCritTemp s
  | .tagReserved tag => Sys2Proof.Machine.execTagReserved tag s
  -- function units (40, 41, 43, 44)
  | .checksum b0 b1 b2 b3 => Sys2Proof.Machine.execChecksum b0 b1 b2 b3 s
  | .split16 v => Sys2Proof.Machine.execSplit16 v s
  | .encode voltageMv tempC => Sys2Proof.Machine.execEncode voltageMv tempC s
  | .decode p0 p1 p2 p3 p4 => Sys2Proof.Machine.execDecode p0 p1 p2 p3 p4 s
  | .classify voltageMv tempC => Sys2Proof.Machine.execClassify voltageMv tempC s
  | .build voltageMv tempC status => Sys2Proof.Machine.execBuild voltageMv tempC status s
  | .serialize id len payload => Sys2Proof.Machine.execSerialize id len payload s
  -- the stream resynchroniser and the pipeline (42, 45)
  | .rxSync => Sys2Proof.Machine.execRxSync s
  | .rxSkip b => Sys2Proof.Machine.execRxSkip b s
  | .rxData b => Sys2Proof.Machine.execRxData b s
  | .validate => Sys2Proof.Machine.execValidate s
  | .rxEos => Sys2Proof.Machine.execRxEos s
  | .rxErr => Sys2Proof.Machine.execRxErr s
  | .rxNone => Sys2Proof.Machine.execRxNone s
  | .rxRefused w => Sys2Proof.Machine.execRxRefused w s
  | .reset => Sys2Proof.Machine.execReset s

end Sys2Proof.Machine
end

