-- ==== Sys2Proof/Machine/Pipeline.lean ====
section
/-! DEFINITION. The derived forms of the spec, as functions beside the machine: the resting states of R24, the fused
step of R100, `run` over a sequence of events (R101), and `gateway` (R138). The machine itself keeps the three-state
form (log 17); statements say that the two agree. -/

namespace Sys2Proof.Machine

/-- The resting states of the fused form; `bytes` is the window so far (R24, R100). -/
inductive Resting where
  | awaitSync
  | accumulate (bytes : List Byte)
  | halted (cause : HaltCause)
  deriving DecidableEq, Repr

/-- The fused step: `none` for "no step" (R100). -/
def fusedStep (q : Resting) (e : RxEvent) : Option (Resting × Event) :=
  match q, e with
  | .awaitSync, .byte b =>
    if b = Config.sync then some (.accumulate [b], .none) else some (.awaitSync, .none)
  | .accumulate [b0, b1, b2, b3], .byte b =>
    match decodePacket #v[b0, b1, b2, b3, b] with
    | .ok r => some (.awaitSync, .reading r)
    | .err _ => some (.awaitSync, .checksumDrop)
  | .accumulate bytes, .byte b => some (.accumulate (bytes ++ [b]), .none)
  | .awaitSync, .eos => some (.halted .streamClosed, .streamClosed)
  | .accumulate _, .eos => some (.halted .streamClosed, .streamClosed)
  | .awaitSync, .err => some (.halted .transportError, .transportError)
  | .accumulate _, .err => some (.halted .transportError, .transportError)
  | .halted _, _ => none

/-- What an event puts on the pipeline's outputs: itself unless it is NONE, and a Reading's frame after it (R131,
R138). -/
def outputsOf : Event → List Output
  | .none => []
  | .reading r => [.event (.reading r), .frame (build r (classify r.voltageMv r.tempC))]
  | .checksumDrop => [.event .checksumDrop]
  | .streamClosed => [.event .streamClosed]
  | .transportError => [.event .transportError]

/-- `run`: fold the fused step over a sequence of events, collecting the outputs; events after a halt are never
consumed (R101, R138). -/
def runEvents (q : Resting) : List RxEvent → Resting × List Output
  | [] => (q, [])
  | e :: es =>
    match fusedStep q e with
    | some (q', ev) => ((runEvents q' es).1, outputsOf ev ++ (runEvents q' es).2)
    | none => (q, [])

/-- The events that a run stops short of: those after the first EOS or ERR, which are never consumed (R99, R138). -/
def afterHalt : List RxEvent → List RxEvent
  | [] => []
  | .byte _ :: es => afterHalt es
  | .eos :: es => es
  | .err :: es => es

/-- The frames of an output trace, in order (R133). -/
def framesOf : List Output → List EgressFrame
  | [] => []
  | .frame f :: rest => f :: framesOf rest
  | .event _ :: rest => framesOf rest

/-- The Readings of an output trace, in order (R133). -/
def readingsOf : List Output → List Reading
  | [] => []
  | .event (.reading r) :: rest => r :: readingsOf rest
  | .event .none :: rest => readingsOf rest
  | .event .checksumDrop :: rest => readingsOf rest
  | .event .streamClosed :: rest => readingsOf rest
  | .event .transportError :: rest => readingsOf rest
  | .frame _ :: rest => readingsOf rest

/-- `gateway(E)`: the frames emitted and the final state of a run from reset (R138). -/
def gateway (es : List RxEvent) : List EgressFrame × Resting :=
  (framesOf (runEvents .awaitSync es).2, (runEvents .awaitSync es).1)

/-- The resting state a machine state stands for: the first `cnt` bytes of `buf` are the window (R24); `none` in
VALIDATE, which is no resting state (R100). -/
def restingOf (s : State) : Option Resting :=
  match s.st with
  | .awaitSync => some .awaitSync
  | .accumulate => some (.accumulate (s.buf.toList.take s.cnt.val))
  | .validate => none
  | .halted => some (.halted s.haltCause)

end Sys2Proof.Machine
end

