-- ==== Sys2Proof/Safety.lean ====
section
/-! DEFINITION. What a good state and a good run are, in the terms the statements use. -/

namespace Sys2Proof

open Machine

/-- `n` steps of the machine, stopping at the first fault or refusal: the host's own run, at the model's types. -/
def runSteps : Nat → State → Host.Outcome State Fault Refusal
  | 0, s => .next s
  | n + 1, s =>
    match step s with
    | .next t => runSteps n t
    | .fault r => .fault r
    | .refused r => .refused r

/-- A sequence of events as it stands offered at the event port (R31, R58). -/
def eventInputs (es : List RxEvent) : List Input :=
  es.map fun e => .event (eventWord e)

/-- A run has come to its end: the block is halted, or it waits for input with all that was offered consumed (R104,
R138). -/
abbrev Settled (s : State) : Prop :=
  s.st = .halted ∨ ((s.st = .awaitSync ∨ s.st = .accumulate) ∧ s.script = [])

/-- The sink takes every frame offered to it (R135, log 10). -/
abbrev SinkAlwaysReady (s : State) : Prop :=
  s.sinkReady = [] ∧ s.sinkAfter = true

/-- What stands first, if anything does, stands in the ingest stream: an event word, or a packet on the wire (R99,
log 6). -/
def streamFirst : List Input → Bool
  | [] => true
  | x :: _ => isStream x

/-- The same as a proposition. -/
abbrev StreamFirst (xs : List Input) : Prop := streamFirst xs = true

/-- R18's table, row by row. -/
def registersAgree (s : State) : Bool :=
  match s.st with
  | .awaitSync => s.cnt.val == 0 && s.haltCause == .none
  | .accumulate =>
    1 ≤ s.cnt.val && s.cnt.val < Config.pktLen && s.buf[0] == Config.sync && s.haltCause == .none
  | .validate => s.cnt.val == Config.pktLen && s.buf[0] == Config.sync && s.haltCause == .none
  | .halted => s.cnt.val == 0 && s.haltCause != .none

/-- The invariant of R18, as a proposition. -/
abbrev RegisterInv (s : State) : Prop := registersAgree s = true

/-- The frames sent are those of the Readings reported, one to one and in order (R131, R133). -/
def FramesMatchReadings (t : List Output) : Prop :=
  framesOf t = (readingsOf t).map fun r => build r (classify r.voltageMv r.tempC)

/-- A frame as the pipeline makes it: the constants, the padding, and the tag that its own data bytes call for
(R52, R63, R121, R131). -/
def FrameLawful (f : EgressFrame) : Prop :=
  f.id = Config.egressId ∧ f.len = Config.egressLen ∧
  f.payload[4] = 0#8 ∧ f.payload[5] = 0#8 ∧ f.payload[6] = 0#8 ∧ f.payload[7] = 0#8 ∧
  f.payload[3] =
    (if Config.tempCrit.toNat < f.payload[2].toNat then Config.tagCritTemp
     else if f.payload[0].toNat * 256 + f.payload[1].toNat < Config.voltWarn.toNat then Config.tagWarnLowVolt
     else Config.tagOk)

/-- Two states that differ at most in the bytes of `buf` that no rule reads: `buf[i]` for `i ≥ cnt` (R16, U4). -/
def SameButDeadBytes (s t : State) : Prop :=
  t = { s with buf := t.buf } ∧ ∀ (i : Nat) (h : i < Config.pktLen), i < s.cnt.val → s.buf[i] = t.buf[i]

/-- Two outcomes of the same kind, with related states or equal reasons. -/
def SameOutcome (R : State → State → Prop) : (a b : Host.Outcome State Fault Refusal) → Prop
  | .next s, .next t => R s t
  | .fault x, .fault y => x = y
  | .refused x, .refused y => x = y
  | _, _ => False

/-- The free-standing calls and readings: operations that answer from their operands alone (R23, R30). -/
def isUnitCall : Instr → Bool
  | .ingestPacket _ _ _ _ => false
  | .egressFrameBig _ _ _ _ => true
  | .egressFrameLittle _ _ _ _ => true
  | .tagOk => true
  | .tagWarnLowVolt => true
  | .tagCritTemp => true
  | .tagReserved _ => false
  | .checksum _ _ _ _ => true
  | .split16 _ => true
  | .encode _ _ => true
  | .decode _ _ _ _ _ => true
  | .classify _ _ => true
  | .build _ _ _ => true
  | .serialize _ _ _ => true
  | .rxSync => false
  | .rxSkip _ => false
  | .rxData _ => false
  | .validate => false
  | .rxEos => false
  | .rxErr => false
  | .rxNone => false
  | .rxRefused _ => false
  | .reset => false

/-- How many `BYTE` events an input can still give: one for a byte, a packet's for a packet on the wire (R32, log 6). -/
def bytesIn : Input → Nat
  | .event w =>
    match eventOf w with
    | some (.byte _) => 1
    | some .eos => 0
    | some .err => 0
    | none => 0
  | .word .pkt _ => Config.pktLen
  | _ => 0

/-- A packet's bytes for every frame sent, the bytes in the window, and the bytes still offered: what R133 bounds. -/
def byteBudget (s : State) : Nat :=
  Config.pktLen * (framesOf s.trace).length + s.cnt.val + (s.script.map bytesIn).sum

end Sys2Proof
end

