-- ==== Sys2Proof/Certificates/Slice0/Obligations.lean ====
section
/-! DEFINITION. The statements for the provers. Each result statement is an equation for the whole next state, so it
says what changes and, by the record update, that nothing else does (there is no memory to frame, R30). A rule that
the spec marks as its own decision or inference is not cited as stated; its docstring says so. -/

open Sys2Proof Sys2Proof.Machine

/-! ## Reset -/

/-- The values R22 gives: `AWAIT_SYNC`, count 0, no cause, no event, no frame. The spec forces the state and decides
the rest (D11); `buf` has no value there and none is stated (log 2). -/
def Obligations.ResetStateHasTheGivenValues : Prop :=
  State.reset.st = .awaitSync ∧ State.reset.cnt = 0 ∧ State.reset.haltCause = .none ∧
  State.reset.evOut = .none ∧ State.reset.trace = []

/-- The reset state meets R18's table (which the spec derives). -/
def Obligations.ResetStateMeetsInvariant : Prop :=
  RegisterInv State.reset

/-! ## The function units -/

/-- R70. The sum of four bytes cut to 8 bits, which is the same as adding modulo 256 at every step; nothing else
changes. That a call's result is recorded in `unitOut` is the model's (log 5). -/
def Obligations.ChecksumIsSumModulo256 : Prop :=
  ∀ (b0 b1 b2 b3 : Byte) (s : State),
    exec (.checksum b0 b1 b2 b3) s = .next { s with unitOut := s.unitOut ++ [.checksum (b0 + b1 + b2 + b3)] } ∧
    (b0 + b1 + b2 + b3).toNat = (b0.toNat + b1.toNat + b2.toNat + b3.toNat) % 256

/-- R71. High byte, then low byte: `v >> 8` and `v & 0xFF`; nothing else changes (log 5). -/
def Obligations.Split16GivesHighThenLow : Prop :=
  ∀ (v : Word16) (s : State),
    exec (.split16 v) s = .next
      { s with unitOut := s.unitOut ++ [.split16 (BitVec.ofNat 8 (v.toNat / 256)) (BitVec.ofNat 8 (v.toNat % 256))] }

/-- R72. The five bytes of `ENCODE`, for every Reading; nothing else changes (log 5). -/
def Obligations.EncodeBuildsThePacket : Prop :=
  ∀ (v : Word16) (t : Byte) (s : State),
    exec (.encode v t) s = .next
      { s with unitOut := s.unitOut ++
          [.encoded #v[0xAA#8, v.extractLsb' 8 8, v.extractLsb' 0 8, t,
            0xAA#8 + v.extractLsb' 8 8 + v.extractLsb' 0 8 + t]] }

/-- R80. Sync check, then checksum, then the Reading `(p[1] << 8) | p[2]`, `p[3]`; nothing else changes (log 5). -/
def Obligations.DecodeChecksSyncThenChecksum : Prop :=
  ∀ (p0 p1 p2 p3 p4 : Byte) (s : State),
    exec (.decode p0 p1 p2 p3 p4) s = .next
      { s with unitOut := s.unitOut ++
          [.decoded (if p0 ≠ 0xAA#8 then .err .syncMismatch
            else if (p0.toNat + p1.toNat + p2.toNat + p3.toNat) % 256 ≠ p4.toNat then .err .checksumMismatch
            else .ok ⟨BitVec.ofNat 16 (p1.toNat * 256 + p2.toNat), p3⟩)] }

/-- R110. Temperature first, then voltage, both comparisons strict and unsigned; nothing else changes (log 5). -/
def Obligations.ClassifyByTemperatureThenVoltage : Prop :=
  ∀ (v : Word16) (t : Byte) (s : State),
    exec (.classify v t) s = .next
      { s with unitOut := s.unitOut ++
          [.classified (if 60 < t.toNat then .critTemp else if v.toNat < 3100 then .warnLowVolt else .ok)] }

/-- R120. The frame `BUILD` makes, for every Reading and status; nothing else changes (log 5). -/
def Obligations.BuildPlacesReadingAndTag : Prop :=
  ∀ (v : Word16) (t : Byte) (c : StatusCode) (s : State),
    exec (.build v t c) s = .next
      { s with unitOut := s.unitOut ++
          [.built
            { id := 0x00000100#32
              len := 0x08#8
              payload := #v[v.extractLsb' 8 8, v.extractLsb' 0 8, t,
                (match c with | .ok => 0#8 | .warnLowVolt => 1#8 | .critTemp => 2#8), 0#8, 0#8, 0#8, 0#8] }] }

/-- R125, whose order is the open parameter (D22): the thirteen bytes of any frame, in whichever order the parameter
has; nothing else changes (logs 5, 11). -/
def Obligations.SerializeFollowsTheIdOrder : Prop :=
  ∀ (id : Word32) (n : Byte) (p : Vector Byte 8) (s : State),
    exec (.serialize id n p) s = .next
      { s with unitOut := s.unitOut ++
          [.serialized (match Config.egressIdOrder with
            | .big => #v[id.extractLsb' 24 8, id.extractLsb' 16 8, id.extractLsb' 8 8, id.extractLsb' 0 8, n,
                p[0], p[1], p[2], p[3], p[4], p[5], p[6], p[7]]
            | .little => #v[id.extractLsb' 0 8, id.extractLsb' 8 8, id.extractLsb' 16 8, id.extractLsb' 24 8, n,
                p[0], p[1], p[2], p[3], p[4], p[5], p[6], p[7]])] }

/-- R23, R114, R124, R162: a unit's answer depends on its operands alone. One result serves every state, and
nothing but the record of results changes (log 5). -/
def Obligations.UnitCallsDependOnOperandsAlone : Prop :=
  ∀ i : Instr, isUnitCall i = true →
    ∃ r : UnitResult, ∀ s : State, exec i s = .next { s with unitOut := s.unitOut ++ [r] }

/-! ## The codec's properties -/

/-- R74. Round trip, for every Reading. -/
def Obligations.DecodeInvertsEncode : Prop :=
  ∀ (v : Word16) (t : Byte), decodePacket (encodeReading ⟨v, t⟩) = .ok ⟨v, t⟩

/-- R75 (the spec derives it): a word that decodes is the packet of its Reading, and different Readings differ in
bytes 1 to 3. -/
def Obligations.EncodeIsTheOnlyPreimage : Prop :=
  (∀ (p : IngestPacket) (r : Reading), decodePacket p = .ok r → encodeReading r = p) ∧
  (∀ r r' : Reading, r ≠ r' →
    (encodeReading r)[1] ≠ (encodeReading r')[1] ∨ (encodeReading r)[2] ≠ (encodeReading r')[2] ∨
    (encodeReading r)[3] ≠ (encodeReading r')[3])

/-- R84 (a) to (c) (the spec derives them; C6): a change of one byte of a valid packet is always detected, as
SyncMismatch for byte 0 and as ChecksumMismatch for bytes 1 to 4. -/
def Obligations.SingleByteChangeIsDetected : Prop :=
  ∀ (r : Reading) (i : Fin 5) (x : Byte), x ≠ (encodeReading r)[i.val] →
    decodePacket ((encodeReading r).set i.val x) =
      (if i.val = 0 then .err .syncMismatch else .err .checksumMismatch)

/-- R84 (d) and (e) (the spec derives (e)): what the checksum detects of changes to bytes 1 to 4, and what it must go on
not detecting. Beside a word that decodes, any word with the same byte 0 decodes, to its own bytes 1 to 3, where its
bytes 1 to 3 less byte 4 come to the same amount modulo 256, and is a ChecksumMismatch where they do not; so exchanging
two of bytes 1 to 3, or moving an amount `d` between bytes 2 and 1, is not detected. -/
def Obligations.CancellingChangesAreAccepted : Prop :=
  ∀ (h l t c : Byte) (r : Reading), decodePacket #v[0xAA#8, h, l, t, c] = .ok r →
    (∀ h' l' t' c' : Byte, decodePacket #v[0xAA#8, h', l', t', c'] =
      (if h' + l' + t' - c' = h + l + t - c then .ok ⟨h' ++ l', t'⟩ else .err .checksumMismatch)) ∧
    decodePacket #v[0xAA#8, l, h, t, c] = .ok ⟨l ++ h, t⟩ ∧
    decodePacket #v[0xAA#8, h, t, l, c] = .ok ⟨h ++ t, l⟩ ∧
    decodePacket #v[0xAA#8, t, l, h, c] = .ok ⟨t ++ l, h⟩ ∧
    ∀ d : Byte, decodePacket #v[0xAA#8, h + d, l - d, t, c] = .ok ⟨(h + d) ++ (l - d), t⟩

/-- R81. A word that fails the sync check reports SyncMismatch whatever its checksum, right or wrong. -/
def Obligations.SyncMismatchWinsOverChecksum : Prop :=
  ∀ (p : IngestPacket), p[0] ≠ 0xAA#8 → decodePacket p = .err .syncMismatch

/-- R113. The three regions: `CRIT_TEMP` whenever the temperature is above 60, whatever the voltage; `WARN_LOW_VOLT`
and `OK` only at 60 or below. -/
def Obligations.ClassifierRegions : Prop :=
  ∀ (v : Word16) (t : Byte),
    (classify v t = .critTemp ↔ 61 ≤ t.toNat) ∧
    (classify v t = .warnLowVolt ↔ v.toNat ≤ 3099 ∧ t.toNat ≤ 60) ∧
    (classify v t = .ok ↔ 3100 ≤ v.toNat ∧ t.toNat ≤ 60)

/-- R122 (the spec derives it): the payload carries the validated bytes 1 to 3 unchanged, in their order, whatever
the status. -/
def Obligations.PayloadIsTheValidatedBytes : Prop :=
  ∀ (p : IngestPacket) (r : Reading) (c : StatusCode), decodePacket p = .ok r →
    (build r c).payload[0] = p[1] ∧ (build r c).payload[1] = p[2] ∧ (build r c).payload[2] = p[3]

/-! ## The format rows -/

/-- INGEST_PACKET (log 6, over R32, R34, R66): the packet's five `BYTE` events, byte 0 first, stand before whatever
is offered later; nothing else changes. While the block reads, the step on the head of the script (log 1) does exactly
this, for any checksum. -/
def Obligations.IngestPacketOffersItsFiveBytes : Prop :=
  ∀ (h l t c : Byte) (s : State),
    exec (.ingestPacket h l t c) s = .next
      { s with script := .event 0x1AA#11 :: .event (0x100#11 ||| h.setWidth 11) ::
          .event (0x100#11 ||| l.setWidth 11) :: .event (0x100#11 ||| t.setWidth 11) ::
          .event (0x100#11 ||| c.setWidth 11) :: s.script } ∧
    ∀ rest : List Input, (s.st = .awaitSync ∨ s.st = .accumulate) →
      s.script = .word .pkt [0xAA#8, h, l, t, c] :: rest →
      step s = .next
        { s with script := .event 0x1AA#11 :: .event (0x100#11 ||| h.setWidth 11) ::
            .event (0x100#11 ||| l.setWidth 11) :: .event (0x100#11 ||| t.setWidth 11) ::
            .event (0x100#11 ||| c.setWidth 11) :: rest }

/-- EGRESS_FRAME_BIG and EGRESS_FRAME_LITTLE (log 7, over R52, R53): each serial form is read as the logical frame it
stands for, in every state; nothing else changes. -/
def Obligations.SerialFramesReadAsLogicalFrames : Prop :=
  ∀ (h l t : Byte) (c : StatusCode) (s : State),
    (∃ f : EgressFrame,
      f.id = 0x00000100#32 ∧ f.len = 0x08#8 ∧
      f.payload = #v[h, l, t, (match c with | .ok => 0#8 | .warnLowVolt => 1#8 | .critTemp => 2#8),
        0#8, 0#8, 0#8, 0#8] ∧
      exec (.egressFrameBig h l t c) s = .next { s with unitOut := s.unitOut ++ [.frameRead .big f] } ∧
      exec (.egressFrameLittle h l t c) s = .next { s with unitOut := s.unitOut ++ [.frameRead .little f] } ∧
      encode (.egressFrameBig h l t c) = some (.word .frmBig (serialize f .big).toList) ∧
      encode (.egressFrameLittle h l t c) = some (.word .frmLittle (serialize f .little).toList))

/-- R53: the thirteen bytes of the frame of any Reading and status, in both orders. -/
def Obligations.SerialFormsOfABuiltFrame : Prop :=
  ∀ (v : Word16) (t : Byte) (c : StatusCode),
    serialize (build ⟨v, t⟩ c) .big =
      #v[0x00#8, 0x00#8, 0x01#8, 0x00#8, 0x08#8, v.extractLsb' 8 8, v.extractLsb' 0 8, t,
        (match c with | .ok => 0#8 | .warnLowVolt => 1#8 | .critTemp => 2#8), 0#8, 0#8, 0#8, 0#8] ∧
    serialize (build ⟨v, t⟩ c) .little =
      #v[0x00#8, 0x01#8, 0x00#8, 0x00#8, 0x08#8, v.extractLsb' 8 8, v.extractLsb' 0 8, t,
        (match c with | .ok => 0#8 | .warnLowVolt => 1#8 | .critTemp => 2#8), 0#8, 0#8, 0#8, 0#8]

/-- R54: the three tags, read in every state (log 8); nothing else changes. -/
def Obligations.TagsReadAsStatusCodes : Prop :=
  ∀ s : State,
    decode s.st (.word .tag [0x00#8]) = .ok .tagOk ∧
    decode s.st (.word .tag [0x01#8]) = .ok .tagWarnLowVolt ∧
    decode s.st (.word .tag [0x02#8]) = .ok .tagCritTemp ∧
    exec .tagOk s = .next { s with unitOut := s.unitOut ++ [.tagRead .ok] } ∧
    exec .tagWarnLowVolt s = .next { s with unitOut := s.unitOut ++ [.tagRead .warnLowVolt] } ∧
    exec .tagCritTemp s = .next { s with unitOut := s.unitOut ++ [.tagRead .critTemp] }

/-- R62, U2 (decided by D19): a tag 0x03 to 0xFF, on the tag port or in a BUILD word, is TAG_RESERVED: the port
refuses it, so no frame is produced and nothing changes, and the block goes on (log 8). The word is taken in its
place, at the head of the script (log 1). -/
def Obligations.ReservedTagProducesNothing : Prop :=
  ∀ (tag h l t : Byte) (s : State), 3 ≤ tag.toNat →
    decode s.st (.word .tag [tag]) = .ok (.tagReserved tag) ∧
    decode s.st (.word .build [h, l, t, tag]) = .ok (.tagReserved tag) ∧
    exec (.tagReserved tag) s = .next s ∧
    ∀ rest : List Input, (s.st = .awaitSync ∨ s.st = .accumulate) →
      s.script = .word .build [h, l, t, tag] :: rest → step s = .next { s with script := rest }

/-! ## The stream resynchroniser -/

/-- R90: in `AWAIT_SYNC` the byte 0xAA opens a window. The operation, and the step on its event word. That the
step takes the head of the script is the model's (log 1). -/
def Obligations.SyncByteOpensAWindow : Prop :=
  ∀ s : State, s.st = .awaitSync →
    exec .rxSync s = .next
      { s with buf := s.buf.set 0 0xAA#8, cnt := 1, st := .accumulate, evOut := .none } ∧
    ∀ rest : List Input, s.script = .event 0x1AA#11 :: rest →
      step s = .next
        { s with buf := s.buf.set 0 0xAA#8, cnt := 1, st := .accumulate, evOut := .none, script := rest }

/-- R91: in `AWAIT_SYNC` any other byte is consumed and lost; no register changes and no event is reported.
That the step takes the head of the script is the model's (log 1). -/
def Obligations.OtherByteIsSkipped : Prop :=
  ∀ (b : Byte) (s : State), s.st = .awaitSync → b ≠ 0xAA#8 →
    exec (.rxSkip b) s = .next { s with evOut := .none } ∧
    ∀ rest : List Input, s.script = .event (0x100#11 ||| b.setWidth 11) :: rest →
      step s = .next { s with evOut := .none, script := rest }

/-- R92: in `ACCUMULATE` any byte is stored at `cnt`; the fifth completes the window. That the step takes
the head of the script is the model's (log 1). -/
def Obligations.DataByteIsStoredAtCnt : Prop :=
  ∀ (b : Byte) (s : State) (h : s.cnt.val < 5), s.st = .accumulate →
    exec (.rxData b) s = .next
      { s with
        buf := s.buf.set s.cnt.val b h
        cnt := s.cnt + 1
        st := if s.cnt.val + 1 = 5 then .validate else .accumulate
        evOut := .none } ∧
    ∀ rest : List Input, s.script = .event (0x100#11 ||| b.setWidth 11) :: rest →
      step s = .next
        { s with
          buf := s.buf.set s.cnt.val b h
          cnt := s.cnt + 1
          st := if s.cnt.val + 1 = 5 then .validate else .accumulate
          evOut := .none
          script := rest }

/-- R95, R131 (VALIDATE as an internal step is D7): a window that passes both checks gives one READING and one frame,
in that order, and an empty window, when the sink takes the frame (its next answer is ready: the first of the list, or the answer
after the list, log 10). -/
def Obligations.ValidWindowIsReportedAndEmitted : Prop :=
  ∀ (h l t : Byte) (s : State), s.st = .validate → s.sinkReady.headD s.sinkAfter = true →
    s.buf = #v[0xAA#8, h, l, t, 0xAA#8 + h + l + t] →
    exec .validate s = .next
      { s with
        st := .awaitSync
        cnt := 0
        evOut := .reading ⟨h ++ l, t⟩
        trace := s.trace ++
          [.event (.reading ⟨h ++ l, t⟩),
           .frame
            { id := 0x00000100#32
              len := 0x08#8
              payload := #v[h, l, t,
                (if 60 < t.toNat then 2#8 else if h.toNat * 256 + l.toNat < 3100 then 1#8 else 0#8),
                0#8, 0#8, 0#8, 0#8] }]
        sinkReady := s.sinkReady.tail }

/-- R96, R102, R132, R147: a window that fails either check is given up whole: one CHECKSUM_DROP, no Reading, no
frame, an empty window; the sink is not asked (log 10). (That the sync arm does the same is D18.) -/
def Obligations.FailedWindowIsDropped : Prop :=
  ∀ s : State, s.st = .validate →
    (s.buf[0] ≠ 0xAA#8 ∨ s.buf[0] + s.buf[1] + s.buf[2] + s.buf[3] ≠ s.buf[4]) →
    exec .validate s = .next
      { s with
        st := .awaitSync
        cnt := 0
        evOut := .checksumDrop
        trace := s.trace ++ [.event .checksumDrop] }

/-- R135 (decided by D24; log 10): while the sink does not take the frame, the step is not finished: every register,
the event output and the trace stay as they are, and no input is taken. The sink's next answer is the first of the
list, or the answer after the list; a packet on the wire waits like an event (log 6). Whatever stands behind a waiting
input, a RESET included, counts as offered after it (log 1). -/
def Obligations.ValidWindowWaitsForTheSink : Prop :=
  ∀ (r : Reading) (s : State), s.st = .validate → decodePacket s.buf = .ok r →
    s.sinkReady.headD s.sinkAfter = false →
    exec .validate s = .next { s with sinkReady := s.sinkReady.tail } ∧
    (StreamFirst s.script → step s = .next { s with sinkReady := s.sinkReady.tail })

/-- R135, U9 (decided by D24; log 10): a sink that is never ready stalls the block for ever. Whatever number of steps
is taken, the window, the state VALIDATE, the outputs and everything offered are as they were; a packet on the wire
waits like an event (log 6). The model's choice (log 1, unsafe): only the head of the script is asked to be a stream
input, and an entry behind a waiting one counts as offered after it, so a RESET or a unit's word that stands there is
never taken. A RESET offered during the stall, which R103 takes in every state, stands at the head of the script
(ResetAppliesInEveryState). -/
def Obligations.SinkNeverReadyStallsForEver : Prop :=
  ∀ (n : Nat) (r : Reading) (s : State), s.st = .validate → decodePacket s.buf = .ok r →
    (∀ b ∈ s.sinkReady, b = false) → s.sinkAfter = false → StreamFirst s.script →
    runSteps n s = .next { s with sinkReady := s.sinkReady.drop n }

/-- R97, R142, R147 (HALTED is D6): end of stream in either reading state halts the block, abandons the window and
reports once; the low nine bits of its word are ignored. That the step takes the head of the script is the model's
(log 1). -/
def Obligations.EndOfStreamHalts : Prop :=
  ∀ s : State, (s.st = .awaitSync ∨ s.st = .accumulate) →
    exec .rxEos s = .next
      { s with
        st := .halted
        cnt := 0
        haltCause := .streamClosed
        evOut := .streamClosed
        trace := s.trace ++ [.event .streamClosed] } ∧
    ∀ (w : EventWord) (rest : List Input), w &&& 0x600#11 = 0x200#11 → s.script = .event w :: rest →
      step s = .next
        { s with
          st := .halted
          cnt := 0
          haltCause := .streamClosed
          evOut := .streamClosed
          trace := s.trace ++ [.event .streamClosed]
          script := rest }

/-- R98, R143, R147 (HALTED is D6): a transport error in either reading state halts the block, abandons the window
and reports once; the low ten bits of its word are ignored, and the word is taken whole, an EOS bit in it
included (log 24). That the step takes the head of the script is the model's (log 1). -/
def Obligations.TransportErrorHalts : Prop :=
  ∀ s : State, (s.st = .awaitSync ∨ s.st = .accumulate) →
    exec .rxErr s = .next
      { s with
        st := .halted
        cnt := 0
        haltCause := .transportError
        evOut := .transportError
        trace := s.trace ++ [.event .transportError] } ∧
    ∀ (w : EventWord) (rest : List Input), w &&& 0x400#11 = 0x400#11 → s.script = .event w :: rest →
      step s = .next
        { s with
          st := .halted
          cnt := 0
          haltCause := .transportError
          evOut := .transportError
          trace := s.trace ++ [.event .transportError]
          script := rest }

/-- R31, R58, R104 (log 9): where no event is offered the state is held. -/
def Obligations.NoEventHoldsTheState : Prop :=
  ∀ s : State,
    exec .rxNone s = .next s ∧
    ((s.st = .awaitSync ∨ s.st = .accumulate) → s.script = [] → step s = .next s)

/-- R99 (decided by D7): an event word offered in VALIDATE is not consumed and waits; the state is held
(log 22). -/
def Obligations.EventOfferedInValidateWaits : Prop :=
  ∀ (w : EventWord) (s : State), s.st = .validate → exec (.rxRefused w) s = .next s

/-- R99, U5 (decided by D6, D29): in HALTED an offered word has no successor; whatever stands offered in the stream,
event words or packets on the wire (log 6), the machine has no step, which is the fault `halted` (log 3). -/
def Obligations.HaltedTakesNoEvent : Prop :=
  ∀ s : State, s.st = .halted → (∀ x ∈ s.script, isStream x = true) →
    (∀ w : EventWord, exec (.rxRefused w) s = .fault .halted) ∧ step s = .fault .halted

/-- R103 (decided by D11, D25): RESET in every state: `AWAIT_SYNC`, an empty window, no cause, no event; `buf`, the
frames already handed over and everything still offered stay. It is taken before anything else offered: the
model has it at the head of the script then (log 1). -/
def Obligations.ResetAppliesInEveryState : Prop :=
  ∀ s : State,
    exec .reset s = .next { s with st := .awaitSync, cnt := 0, haltCause := .none, evOut := .none } ∧
    ∀ rest : List Input, s.script = .reset :: rest →
      step s = .next
        { s with st := .awaitSync, cnt := 0, haltCause := .none, evOut := .none, script := rest }

/-- R99, R103, R146 (logs 1, 6): RESET is no part of the event word, so what stands in the stream and the halted block
does not take, event words or packets on the wire, does not hold it up; that stays offered. -/
def Obligations.ResetPassesRefusedEvents : Prop :=
  ∀ (waiting rest : List Input) (s : State), s.st = .halted → (∀ x ∈ waiting, isStream x = true) →
    s.script = waiting ++ .reset :: rest →
    step s = .next
      { s with
        st := .awaitSync
        cnt := 0
        haltCause := .none
        evOut := .none
        script := waiting ++ rest }

/-! ## Selection and the step -/

/-- R59, R64: a step runs the operation its input selects, the input taken from the script; where no input is taken
it runs the internal step, a refused event, or waits. Which input that is, and what a step does without one, is the
model's: the head of the script is taken in a reading state, and a unit's word in its place (log 1, unsafe; a packet on
the wire counts as a stream input, log 6); VALIDATE is a step of its own without an input (log 17); waiting is a step,
RX_NONE (log 9); and a halted block with only stream inputs offered, or nothing, runs RX_REFUSED (log 3). -/
def Obligations.StepRunsTheDecodedOperation : Prop :=
  ∀ s : State,
    (∀ (x : Input) (rest : List Input) (i : Instr), nextInput s = some (x, rest) → decode s.st x = .ok i →
      step s = exec i { s with script := rest }) ∧
    (∀ (x : Input) (rest : List Input), (s.st = .awaitSync ∨ s.st = .accumulate) → s.script = x :: rest →
      nextInput s = some (x, rest)) ∧
    (nextInput s = none →
      step s = exec
        (match s.st with
          | .awaitSync => .rxNone
          | .accumulate => .rxNone
          | .validate => .validate
          | .halted => .rxRefused (offeredWord s.script)) s)

/-- R58, R59: what an event word selects in the two reading states, by match and mask, in priority order; every word
falls under one of the four. (The word's form is D23, its priority D5.) -/
def Obligations.EventWordSelectsByPriority : Prop :=
  ∀ w : EventWord,
    (w &&& 0x400#11 = 0x400#11 → decodeEvent .awaitSync w = .rxErr ∧ decodeEvent .accumulate w = .rxErr) ∧
    (w &&& 0x600#11 = 0x200#11 → decodeEvent .awaitSync w = .rxEos ∧ decodeEvent .accumulate w = .rxEos) ∧
    (w &&& 0x700#11 = 0x100#11 →
      decodeEvent .awaitSync w = (if w = 0x1AA#11 then .rxSync else .rxSkip (w.extractLsb' 0 8)) ∧
      decodeEvent .accumulate w = .rxData (w.extractLsb' 0 8)) ∧
    (w &&& 0x700#11 = 0x000#11 → decodeEvent .awaitSync w = .rxNone ∧ decodeEvent .accumulate w = .rxNone) ∧
    (w &&& 0x400#11 = 0x400#11 ∨ w &&& 0x600#11 = 0x200#11 ∨ w &&& 0x700#11 = 0x100#11 ∨
      w &&& 0x700#11 = 0x000#11) ∧
    decodeEvent .validate w = .rxRefused w ∧ decodeEvent .halted w = .rxRefused w

/-- R59, R105: what an input selects is always an operation that applies in the state it is selected in. -/
def Obligations.SelectedOperationApplies : Prop :=
  ∀ (st : St) (x : Input) (i : Instr), decode st x = .ok i → enabledIn st i = true

/-- R50, R53, R54, R57, R58: words written out from the spec's layouts, and what each is. -/
def Obligations.WrittenWordsDecode : Prop :=
  decode .awaitSync (.event 0b00110101010#11) = .ok .rxSync ∧
  decode .accumulate (.event 0b00110101010#11) = .ok (.rxData 0xAA#8) ∧
  decode .awaitSync (.event 0b00100001100#11) = .ok (.rxSkip 0x0C#8) ∧
  decode .accumulate (.event 0b01000000000#11) = .ok .rxEos ∧
  decode .awaitSync (.event 0b10000000000#11) = .ok .rxErr ∧
  decode .awaitSync (.word .pkt [0xAA#8, 0x0C#8, 0xE4#8, 0x2D#8, 0xC7#8]) =
    .ok (.ingestPacket 0x0C#8 0xE4#8 0x2D#8 0xC7#8) ∧
  decode .halted (.word .classify [0x0C#8, 0x1C#8, 0x3C#8]) = .ok (.classify 3100#16 60#8) ∧
  decode .validate (.word .build [0x0C#8, 0xE4#8, 0x46#8, 0x02#8]) = .ok (.build 3300#16 70#8 .critTemp) ∧
  decode .awaitSync (.word .frmLittle
    [0x00#8, 0x01#8, 0x00#8, 0x00#8, 0x08#8, 0x0C#8, 0xE4#8, 0x2D#8, 0x00#8, 0x00#8, 0x00#8, 0x00#8, 0x00#8]) =
    .ok (.egressFrameLittle 0x0C#8 0xE4#8 0x2D#8 .ok)

/-- Decoding what the encoder writes gives the operation back, for every well-formed operation with every operand
value, in every state that selects it; only the internal step has no input (log 17). The bits of an event word that are
ignored are written as 0 (log 18). -/
def Obligations.DecodeOfEncodeIsTheOperation : Prop :=
  ∀ (st : St) (i : Instr), wellFormed i = true → enabledIn st i = true →
    (i = .validate ∧ encode i = none) ∨ ∃ x : Input, encode i = some x ∧ decode st x = .ok i

/-- The other direction: a port word that is read at all is the word the encoder writes for what it was read as, so
no bit of it is dropped; but for a BUILD word whose last byte is a reserved tag, whose operation is TAG_RESERVED of that
byte (R62, log 8). -/
def Obligations.EncodeOfDecodeIsTheWord : Prop :=
  ∀ (st : St) (p : Port) (bytes : List Byte) (i : Instr), decode st (.word p bytes) = .ok i →
    encode i = some (.word p bytes) ∨
    (p = .build ∧ ∃ h l t tag : Byte, bytes = [h, l, t, tag] ∧ 3 ≤ tag.toNat ∧ i = .tagReserved tag)

/-! ## Invariants and whole-machine rules -/

/-- R18 (the spec derives it): every step keeps the table of `st`, `cnt`, `buf[0]` and `halt_cause`. -/
def Obligations.StepKeepsRegisterInvariant : Prop :=
  ∀ s t : State, RegisterInv s → step s = .next t → RegisterInv t

/-- R131, R133: every step keeps the frames sent equal, one to one and in order, to the frames of the Readings
reported. -/
def Obligations.StepKeepsFramesMatchingReadings : Prop :=
  ∀ s t : State, FramesMatchReadings s.trace → step s = .next t → FramesMatchReadings t.trace

/-- R52, R63, R121, R131: every frame ever sent has the constant identifier and length, zero padding, and the tag its
own data bytes call for. -/
def Obligations.StepKeepsFramesLawful : Prop :=
  ∀ s t : State, (∀ f ∈ framesOf s.trace, FrameLawful f) → step s = .next t →
    ∀ f ∈ framesOf t.trace, FrameLawful f

/-- R133's bound: five bytes are spent for every frame. Frames sent, bytes in the window and bytes offered, counted
together, never grow. A packet on the wire counts as its five bytes (log 6). -/
def Obligations.EveryFrameCostsFiveBytes : Prop :=
  ∀ s t : State, RegisterInv s → step s = .next t → byteBudget t ≤ byteBudget s

/-- R19, R43: outputs are only ever added at the end; what one step adds to the trace is nothing, one event, or one
READING with its frame. (The record of results is log 5, of events log 4.) -/
def Obligations.OutputsAreOnlyAppended : Prop :=
  ∀ s t : State, step s = .next t →
    (∃ r : List UnitResult, t.unitOut = s.unitOut ++ r) ∧
    (t.trace = s.trace ∨
     (∃ e : Event, e ≠ .none ∧ t.evOut = e ∧ t.trace = s.trace ++ [.event e]) ∨
     (∃ (r : Reading) (f : EgressFrame), t.evOut = .reading r ∧ t.trace = s.trace ++ [.event (.reading r), .frame f]))

/-- R105 and log 12: from a state that meets R18 the only fault is the halted block's, and it is the halted
block's. -/
def Obligations.OnlyTheHaltedBlockFaults : Prop :=
  ∀ (s : State) (f : Fault), RegisterInv s → step s = .fault f → f = .halted ∧ s.st = .halted

/-- R105, R135: every event offered in a reading state is consumed; the VALIDATE step takes no input and goes on,
waiting only for the sink. That a wait uses one answer of the sink and reports nothing before the frame is taken is the
model's choice (log 10), and that a packet on the wire waits like an event is too (log 6), as is that the head of the
script is taken and that whatever stands behind a waiting input, a RESET included, counts as offered after it (log
1). -/
def Obligations.ReadingBlockAlwaysSteps : Prop :=
  ∀ (s : State) (rest : List Input), RegisterInv s →
    (∀ w : EventWord, (s.st = .awaitSync ∨ s.st = .accumulate) → s.script = .event w :: rest →
      ∃ t : State, step s = .next t ∧ t.script = rest) ∧
    (s.st = .validate → StreamFirst s.script →
      ∃ t : State, step s = .next t ∧ t.script = s.script ∧
        (t.st = .awaitSync ∨
          (s.sinkReady.headD s.sinkAfter = false ∧ t = { s with sinkReady := s.sinkReady.tail })))

/-- R99, R103, R148: only RESET leaves HALTED; every other step there leaves every register, the event output and the
trace as they are (that the units and the format rows still answer there is logs 1 and 3). -/
def Obligations.OnlyResetLeavesHalted : Prop :=
  ∀ s t : State, s.st = .halted → step s = .next t →
    (∃ rest : List Input, nextInput s = some (.reset, rest) ∧ t.st = .awaitSync ∧ t.haltCause = .none ∧
      t.trace = s.trace) ∨
    (t.st = .halted ∧ t.haltCause = s.haltCause ∧ t.cnt = s.cnt ∧ t.buf = s.buf ∧ t.evOut = s.evOut ∧
      t.trace = s.trace)

/-- R94, R99, R146, C2: a complete window is validated before anything offered in the stream meanwhile, whatever
event word or packet on the wire (log 6) that is; it stays offered. Whatever stands behind it, a RESET included, counts
as offered after it (log 1). -/
def Obligations.ValidateComesBeforeTheNextEvent : Prop :=
  ∀ (s : State) (x : Input) (rest : List Input), s.st = .validate → isStream x = true → s.script = x :: rest →
    step s = exec .validate s ∧ ∀ t : State, step s = .next t → t.script = x :: rest

/-- R104 (decided by D30): no timeout. However long the port stays idle, a reading block keeps its state. An idle word is
a step that changes nothing (log 9), and the script is taken from its head (log 1). -/
def Obligations.WaitingNeverTimesOut : Prop :=
  ∀ (n : Nat) (w : EventWord) (rest : List Input) (s : State), (s.st = .awaitSync ∨ s.st = .accumulate) →
    w &&& 0x700#11 = 0x000#11 → s.script = List.replicate n (.event w) ++ rest →
    runSteps n s = .next { s with script := rest }

/-- R134: what VALIDATE puts out depends on the five bytes of the window and on nothing else. The sink's next answer
is ready (log 10). -/
def Obligations.NothingCarriesOverBetweenWindows : Prop :=
  ∀ s t : State, s.st = .validate → t.st = .validate → s.buf = t.buf →
    s.sinkReady.headD s.sinkAfter = true → t.sinkReady.headD t.sinkAfter = true →
    ∃ (o : List Output) (s' t' : State), exec .validate s = .next s' ∧ exec .validate t = .next t' ∧
      s'.trace = s.trace ++ o ∧ t'.trace = t.trace ++ o ∧ s'.evOut = t'.evOut

/-- R16, U4 (the spec derives it): what the dead bytes of `buf` hold cannot be observed. Two states that differ only
there step alike, and differ only there again. -/
def Obligations.DeadBufferBytesAreUnobservable : Prop :=
  ∀ s t : State, RegisterInv s → SameButDeadBytes s t → SameOutcome SameButDeadBytes (step s) (step t)

/-! ## The derived forms -/

/-- R100 (the spec derives it): the machine's three-state form and the fused step agree. One event in a resting state
takes one step, or two where it completes a window, and leaves the fused step's state and outputs. The sink is ready
(log 10); what is offered later may be a packet on the wire (log 6). The script is taken from its head, and a RESET
behind what is offered later counts as offered after it (log 1). -/
def Obligations.FusedStepAgreesWithTheMachine : Prop :=
  ∀ (s : State) (w : EventWord) (e : RxEvent) (later : List Input) (q : Resting),
    RegisterInv s → SinkAlwaysReady s → (s.st = .awaitSync ∨ s.st = .accumulate) →
    s.script = .event w :: later → StreamFirst later → eventOf w = some e → restingOf s = some q →
    ∃ (q' : Resting) (ev : Event) (n : Nat) (t : State), fusedStep q e = some (q', ev) ∧ (n = 1 ∨ n = 2) ∧
      runSteps n s = .next t ∧ restingOf t = some q' ∧
      t.trace = s.trace ++ outputsOf ev ∧ t.script = later ∧ SinkAlwaysReady t ∧ RegisterInv t

/-- R138 (the spec derives it): the machine's run over any finite sequence of events, from any resting state, consumes
every event up to the first EOS or ERR and none after it, puts out what the fold of the fused step puts out and ends
where it ends; from reset this is `gateway`. A block already halted consumes none. The sink is ready (log 10);
the events are taken in the script's order (log 1). -/
def Obligations.MachineRunIsTheGatewayFunction : Prop :=
  ∀ (es : List RxEvent) (s : State) (q : Resting), RegisterInv s → SinkAlwaysReady s → restingOf s = some q →
    s.script = eventInputs es →
    ∃ (n : Nat) (t : State), runSteps n s = .next t ∧ Settled t ∧
      t.script = eventInputs (if s.st = .halted then es else afterHalt es) ∧
      restingOf t = some (runEvents q es).1 ∧ t.trace = s.trace ++ (runEvents q es).2 ∧
      (s.st = .awaitSync → s.trace = [] →
        framesOf t.trace = (gateway es).1 ∧ restingOf t = some (gateway es).2)

/-- R101: the machine's result is the same however the stream is cut into reads. From any resting state a first read
runs to its end, whatever window it leaves open, and then the second; and whatever state those two runs reach, in any
numbers of steps, waiting between them included, the run over both reads offered together reaches that same state, in
no more steps. The sink is ready (log 10); waiting is a step that changes nothing (log 9); the events are taken in the
script's order (log 1). -/
def Obligations.ChunkingDoesNotMatter : Prop :=
  ∀ (c1 c2 : List RxEvent) (s : State),
    RegisterInv s → SinkAlwaysReady s → s.st ≠ .validate → s.script = eventInputs c1 →
    (∃ (n m : Nat) (t u : State), runSteps n s = .next t ∧ Settled t ∧
      runSteps m { t with script := t.script ++ eventInputs c2 } = .next u ∧ Settled u) ∧
    ∀ (n m : Nat) (t u : State), runSteps n s = .next t →
      runSteps m { t with script := t.script ++ eventInputs c2 } = .next u →
      ∃ k : Nat, k ≤ n + m ∧ runSteps k { s with script := eventInputs (c1 ++ c2) } = .next u

/-- R138's instance, R169: any number of bytes other than 0xAA and then a valid packet give exactly one READING and
one frame, the packet's, from any state that hunts for sync; the garbage goes silently. The sink is ready (log
10); what is offered later may be a packet on the wire (log 6). The script is taken from its head, and a RESET behind
what is offered later counts as offered after it (log 1). -/
def Obligations.GarbageThenPacketYieldsOneFrame : Prop :=
  ∀ (garbage : List Byte) (v : Word16) (t : Byte) (later : List Input) (s : State),
    (∀ b ∈ garbage, b ≠ 0xAA#8) → s.st = .awaitSync → SinkAlwaysReady s → StreamFirst later →
    s.script = eventInputs (garbage.map .byte) ++ (eventInputs ((encodeReading ⟨v, t⟩).toList.map .byte) ++ later) →
    runSteps (garbage.length + 6) s = .next
      { s with
        st := .awaitSync
        cnt := 0
        buf := encodeReading ⟨v, t⟩
        evOut := .reading ⟨v, t⟩
        trace := s.trace ++ [.event (.reading ⟨v, t⟩), .frame (build ⟨v, t⟩ (classify v t))]
        script := later }

/-! ## The constants -/

/-- R5's table: the value of every constant. (The spec did not audit the literals against the original repository, log
20.) -/
def Obligations.ConstantsHaveTheGivenValues : Prop :=
  Config.sync = 170#8 ∧ Config.pktLen = 5 ∧ Config.ckSpan = 4 ∧ Config.tempCrit = 60#8 ∧
  Config.voltWarn = 3100#16 ∧ Config.egressId = 256#32 ∧ Config.egressLen = 8#8 ∧ Config.payloadLen = 8 ∧
  Config.frameLen = 13 ∧ Config.tagOk = 0#8 ∧ Config.tagWarnLowVolt = 1#8 ∧ Config.tagCritTemp = 2#8
end

