-- ==== Sys2Proof/Laws/Operands.lean ====
section
/-! SUPPORT. Laws of operand assembly: split and assembly are inverse (R56), the checksum is the sum of its bytes (R70),
tags and their status codes (R54), event words and their events (R58). -/

namespace Sys2Proof.Machine

theorem or_low_byte (n : Nat) (b : Byte) : n * 256 ||| b.toNat = n * 256 + b.toNat := by
  have h : b.toNat < 2 ^ 8 := b.isLt
  rw [show n * 256 = n <<< 8 by simp [Nat.shiftLeft_eq], Nat.shiftLeft_add_eq_or_of_lt h]

theorem or_byte_field (n k : Nat) (b : Byte) : n * 256 * 2 ^ k ||| b.toNat * 2 ^ k = (n * 256 + b.toNat) * 2 ^ k := by
  rw [← or_low_byte, ← Nat.shiftLeft_eq, ← Nat.shiftLeft_eq, ← Nat.shiftLeft_or_distrib, Nat.shiftLeft_eq]

theorem assemble16_toNat (h l : Byte) : (assemble16 h l).toNat = h.toNat * 256 + l.toNat := by
  have hh := h.isLt
  have hl := l.isLt
  simp only [assemble16, BitVec.toNat_or, BitVec.toNat_shiftLeft, BitVec.toNat_setWidth, Nat.shiftLeft_eq]
  rw [Nat.mod_eq_of_lt (a := h.toNat) (by omega), Nat.mod_eq_of_lt (a := l.toNat) (by omega),
    Nat.mod_eq_of_lt (by omega)]
  exact or_low_byte _ _

theorem split16_fst_toNat (v : Word16) : (split16 v).1.toNat = v.toNat / 256 := by
  have := v.isLt
  simp [split16, BitVec.extractLsb'_toNat, Nat.shiftRight_eq_div_pow]
  omega

theorem split16_snd_toNat (v : Word16) : (split16 v).2.toNat = v.toNat % 256 := by
  simp [split16, BitVec.extractLsb'_toNat]

@[simp] theorem split16_assemble16_fst (h l : Byte) : (split16 (assemble16 h l)).1 = h := by
  apply BitVec.eq_of_toNat_eq
  have := l.isLt
  rw [split16_fst_toNat, assemble16_toNat]
  omega

@[simp] theorem split16_assemble16_snd (h l : Byte) : (split16 (assemble16 h l)).2 = l := by
  apply BitVec.eq_of_toNat_eq
  have := l.isLt
  rw [split16_snd_toNat, assemble16_toNat]
  omega

@[simp] theorem assemble16_split16 (v : Word16) : assemble16 (split16 v).1 (split16 v).2 = v := by
  apply BitVec.eq_of_toNat_eq
  rw [assemble16_toNat, split16_fst_toNat, split16_snd_toNat]
  omega

theorem assemble16_eq_append (h l : Byte) : assemble16 h l = h ++ l := by
  apply BitVec.eq_of_toNat_eq
  rw [assemble16_toNat, BitVec.toNat_append, Nat.shiftLeft_eq]
  exact (or_low_byte _ _).symm

theorem checksum_eq_add (b0 b1 b2 b3 : Byte) : checksum b0 b1 b2 b3 = b0 + b1 + b2 + b3 := by
  apply BitVec.eq_of_toNat_eq
  simp [checksum, trunc8, BitVec.toNat_add]

theorem checksum_toNat (b0 b1 b2 b3 : Byte) :
    (checksum b0 b1 b2 b3).toNat = (b0.toNat + b1.toNat + b2.toNat + b3.toNat) % 256 := by
  simp [checksum, trunc8]

@[simp] theorem statusOf_tagOf (c : StatusCode) : statusOf (tagOf c) = some c := by
  cases c <;> decide

theorem tagOf_of_statusOf {s : Byte} {c : StatusCode} (h : statusOf s = some c) : tagOf c = s := by
  unfold statusOf at h
  split_ifs at h with h0 h1 h2 <;> cases h <;> simp [tagOf, *]

/-- The reserved tags are exactly 0x03 to 0xFF (R62). -/
theorem statusOf_eq_none_iff (s : Byte) : statusOf s = none ↔ 3 ≤ s.toNat := by
  revert s; decide

@[simp] theorem eventOf_eventWord (e : RxEvent) : eventOf (eventWord e) = some e := by
  cases e with
  | byte b => revert b; decide
  | eos => decide
  | err => decide

theorem assemble32_toNat (a b c d : Byte) :
    (assemble32 a b c d).toNat = ((a.toNat * 256 + b.toNat) * 256 + c.toNat) * 256 + d.toNat := by
  have ha := a.isLt
  have hb := b.isLt
  have hc := c.isLt
  have hd := d.isLt
  simp only [assemble32, BitVec.toNat_or, BitVec.toNat_shiftLeft, BitVec.toNat_setWidth, Nat.shiftLeft_eq]
  rw [Nat.mod_eq_of_lt (a := a.toNat) (by omega), Nat.mod_eq_of_lt (a := b.toNat) (by omega),
    Nat.mod_eq_of_lt (a := c.toNat) (by omega), Nat.mod_eq_of_lt (a := d.toNat) (by omega),
    Nat.mod_eq_of_lt (by omega), Nat.mod_eq_of_lt (by omega), Nat.mod_eq_of_lt (by omega)]
  have h1 := or_byte_field a.toNat 16 b
  have h2 := or_byte_field (a.toNat * 256 + b.toNat) 8 c
  rw [show a.toNat * 256 * 2 ^ 16 = a.toNat * 2 ^ 24 by omega] at h1
  rw [show (a.toNat * 256 + b.toNat) * 256 * 2 ^ 8 = (a.toNat * 256 + b.toNat) * 2 ^ 16 by omega] at h2
  rw [h1, h2]
  exact or_low_byte _ _

theorem split32_toNat (v : Word32) :
    (split32 v).1.toNat = v.toNat / 16777216 ∧ (split32 v).2.1.toNat = v.toNat / 65536 % 256 ∧
    (split32 v).2.2.1.toNat = v.toNat / 256 % 256 ∧ (split32 v).2.2.2.toNat = v.toNat % 256 := by
  have := v.isLt
  refine ⟨?_, ?_, ?_, ?_⟩ <;> simp [split32, BitVec.extractLsb'_toNat, Nat.shiftRight_eq_div_pow]
  omega

@[simp] theorem split32_assemble32 (a b c d : Byte) : split32 (assemble32 a b c d) = (a, b, c, d) := by
  obtain ⟨h1, h2, h3, h4⟩ := split32_toNat (assemble32 a b c d)
  rw [assemble32_toNat] at h1 h2 h3 h4
  have ha := a.isLt
  have hb := b.isLt
  have hc := c.isLt
  have hd := d.isLt
  refine Prod.ext ?_ (Prod.ext ?_ (Prod.ext ?_ ?_)) <;> apply BitVec.eq_of_toNat_eq <;> simp only [*] <;> omega

@[simp] theorem assemble32_split32 (v : Word32) :
    assemble32 (split32 v).1 (split32 v).2.1 (split32 v).2.2.1 (split32 v).2.2.2 = v := by
  obtain ⟨h1, h2, h3, h4⟩ := split32_toNat v
  apply BitVec.eq_of_toNat_eq
  rw [assemble32_toNat, h1, h2, h3, h4]
  omega

end Sys2Proof.Machine
end

