-- ==== Sys2Proof/Laws/State.lean ====
section
/-! SUPPORT. One lemma per field per update of the state, true by rfl, for the named operations of Machine/Ops.lean:
no later proof unfolds a record update. -/

namespace Sys2Proof.Machine

@[simp] theorem emit_st (f : EgressFrame) (s : State) : (emit f s).st = s.st := rfl
@[simp] theorem emit_cnt (f : EgressFrame) (s : State) : (emit f s).cnt = s.cnt := rfl
@[simp] theorem emit_buf (f : EgressFrame) (s : State) : (emit f s).buf = s.buf := rfl
@[simp] theorem emit_haltCause (f : EgressFrame) (s : State) : (emit f s).haltCause = s.haltCause := rfl
@[simp] theorem emit_evOut (f : EgressFrame) (s : State) : (emit f s).evOut = s.evOut := rfl
@[simp] theorem emit_trace (f : EgressFrame) (s : State) : (emit f s).trace = s.trace ++ [.frame f] := rfl
@[simp] theorem emit_unitOut (f : EgressFrame) (s : State) : (emit f s).unitOut = s.unitOut := rfl
@[simp] theorem emit_script (f : EgressFrame) (s : State) : (emit f s).script = s.script := rfl
@[simp] theorem emit_sinkReady (f : EgressFrame) (s : State) : (emit f s).sinkReady = s.sinkReady := rfl
@[simp] theorem emit_sinkAfter (f : EgressFrame) (s : State) : (emit f s).sinkAfter = s.sinkAfter := rfl

@[simp] theorem answer_st (r : UnitResult) (s : State) : (answer r s).st = s.st := rfl
@[simp] theorem answer_cnt (r : UnitResult) (s : State) : (answer r s).cnt = s.cnt := rfl
@[simp] theorem answer_buf (r : UnitResult) (s : State) : (answer r s).buf = s.buf := rfl
@[simp] theorem answer_haltCause (r : UnitResult) (s : State) : (answer r s).haltCause = s.haltCause := rfl
@[simp] theorem answer_evOut (r : UnitResult) (s : State) : (answer r s).evOut = s.evOut := rfl
@[simp] theorem answer_trace (r : UnitResult) (s : State) : (answer r s).trace = s.trace := rfl
@[simp] theorem answer_unitOut (r : UnitResult) (s : State) : (answer r s).unitOut = s.unitOut ++ [r] := rfl
@[simp] theorem answer_script (r : UnitResult) (s : State) : (answer r s).script = s.script := rfl
@[simp] theorem answer_sinkReady (r : UnitResult) (s : State) : (answer r s).sinkReady = s.sinkReady := rfl
@[simp] theorem answer_sinkAfter (r : UnitResult) (s : State) : (answer r s).sinkAfter = s.sinkAfter := rfl

@[simp] theorem goTo_st (st : St) (s : State) : (goTo st s).st = st := rfl
@[simp] theorem goTo_cnt (st : St) (s : State) : (goTo st s).cnt = s.cnt := rfl
@[simp] theorem goTo_buf (st : St) (s : State) : (goTo st s).buf = s.buf := rfl
@[simp] theorem goTo_haltCause (st : St) (s : State) : (goTo st s).haltCause = s.haltCause := rfl
@[simp] theorem goTo_evOut (st : St) (s : State) : (goTo st s).evOut = s.evOut := rfl
@[simp] theorem goTo_trace (st : St) (s : State) : (goTo st s).trace = s.trace := rfl
@[simp] theorem goTo_unitOut (st : St) (s : State) : (goTo st s).unitOut = s.unitOut := rfl
@[simp] theorem goTo_script (st : St) (s : State) : (goTo st s).script = s.script := rfl
@[simp] theorem goTo_sinkReady (st : St) (s : State) : (goTo st s).sinkReady = s.sinkReady := rfl
@[simp] theorem goTo_sinkAfter (st : St) (s : State) : (goTo st s).sinkAfter = s.sinkAfter := rfl

@[simp] theorem resume_st (s : State) : (resume s).st = .awaitSync := rfl
@[simp] theorem resume_cnt (s : State) : (resume s).cnt = 0 := rfl
@[simp] theorem resume_buf (s : State) : (resume s).buf = s.buf := rfl
@[simp] theorem resume_haltCause (s : State) : (resume s).haltCause = s.haltCause := rfl
@[simp] theorem resume_evOut (s : State) : (resume s).evOut = s.evOut := rfl
@[simp] theorem resume_trace (s : State) : (resume s).trace = s.trace := rfl
@[simp] theorem resume_unitOut (s : State) : (resume s).unitOut = s.unitOut := rfl
@[simp] theorem resume_script (s : State) : (resume s).script = s.script := rfl
@[simp] theorem resume_sinkReady (s : State) : (resume s).sinkReady = s.sinkReady := rfl
@[simp] theorem resume_sinkAfter (s : State) : (resume s).sinkAfter = s.sinkAfter := rfl

@[simp] theorem resetBlock_st (s : State) : (resetBlock s).st = .awaitSync := rfl
@[simp] theorem resetBlock_cnt (s : State) : (resetBlock s).cnt = 0 := rfl
@[simp] theorem resetBlock_buf (s : State) : (resetBlock s).buf = s.buf := rfl
@[simp] theorem resetBlock_haltCause (s : State) : (resetBlock s).haltCause = .none := rfl
@[simp] theorem resetBlock_evOut (s : State) : (resetBlock s).evOut = .none := rfl
@[simp] theorem resetBlock_trace (s : State) : (resetBlock s).trace = s.trace := rfl
@[simp] theorem resetBlock_unitOut (s : State) : (resetBlock s).unitOut = s.unitOut := rfl
@[simp] theorem resetBlock_script (s : State) : (resetBlock s).script = s.script := rfl
@[simp] theorem resetBlock_sinkReady (s : State) : (resetBlock s).sinkReady = s.sinkReady := rfl
@[simp] theorem resetBlock_sinkAfter (s : State) : (resetBlock s).sinkAfter = s.sinkAfter := rfl

@[simp] theorem sinkAnswered_st (s : State) : (sinkAnswered s).st = s.st := rfl
@[simp] theorem sinkAnswered_cnt (s : State) : (sinkAnswered s).cnt = s.cnt := rfl
@[simp] theorem sinkAnswered_buf (s : State) : (sinkAnswered s).buf = s.buf := rfl
@[simp] theorem sinkAnswered_haltCause (s : State) : (sinkAnswered s).haltCause = s.haltCause := rfl
@[simp] theorem sinkAnswered_evOut (s : State) : (sinkAnswered s).evOut = s.evOut := rfl
@[simp] theorem sinkAnswered_trace (s : State) : (sinkAnswered s).trace = s.trace := rfl
@[simp] theorem sinkAnswered_unitOut (s : State) : (sinkAnswered s).unitOut = s.unitOut := rfl
@[simp] theorem sinkAnswered_script (s : State) : (sinkAnswered s).script = s.script := rfl
@[simp] theorem sinkAnswered_sinkReady (s : State) : (sinkAnswered s).sinkReady = s.sinkReady.tail := rfl
@[simp] theorem sinkAnswered_sinkAfter (s : State) : (sinkAnswered s).sinkAfter = s.sinkAfter := rfl

@[simp] theorem offerChunk_st (p : IngestPacket) (s : State) : (offerChunk p s).st = s.st := rfl
@[simp] theorem offerChunk_cnt (p : IngestPacket) (s : State) : (offerChunk p s).cnt = s.cnt := rfl
@[simp] theorem offerChunk_buf (p : IngestPacket) (s : State) : (offerChunk p s).buf = s.buf := rfl
@[simp] theorem offerChunk_haltCause (p : IngestPacket) (s : State) : (offerChunk p s).haltCause = s.haltCause := rfl
@[simp] theorem offerChunk_evOut (p : IngestPacket) (s : State) : (offerChunk p s).evOut = s.evOut := rfl
@[simp] theorem offerChunk_trace (p : IngestPacket) (s : State) : (offerChunk p s).trace = s.trace := rfl
@[simp] theorem offerChunk_unitOut (p : IngestPacket) (s : State) : (offerChunk p s).unitOut = s.unitOut := rfl
@[simp] theorem offerChunk_script (p : IngestPacket) (s : State) : (offerChunk p s).script = packetEvents p ++ s.script := rfl
@[simp] theorem offerChunk_sinkReady (p : IngestPacket) (s : State) : (offerChunk p s).sinkReady = s.sinkReady := rfl
@[simp] theorem offerChunk_sinkAfter (p : IngestPacket) (s : State) : (offerChunk p s).sinkAfter = s.sinkAfter := rfl

@[simp] theorem dropWindow_st (s : State) : (dropWindow s).st = .awaitSync := rfl
@[simp] theorem dropWindow_cnt (s : State) : (dropWindow s).cnt = 0 := rfl
@[simp] theorem dropWindow_buf (s : State) : (dropWindow s).buf = s.buf := rfl
@[simp] theorem dropWindow_haltCause (s : State) : (dropWindow s).haltCause = s.haltCause := rfl
@[simp] theorem dropWindow_evOut (s : State) : (dropWindow s).evOut = .checksumDrop := rfl
@[simp] theorem dropWindow_trace (s : State) : (dropWindow s).trace = s.trace ++ [.event .checksumDrop] := rfl
@[simp] theorem dropWindow_unitOut (s : State) : (dropWindow s).unitOut = s.unitOut := rfl
@[simp] theorem dropWindow_script (s : State) : (dropWindow s).script = s.script := rfl
@[simp] theorem dropWindow_sinkReady (s : State) : (dropWindow s).sinkReady = s.sinkReady := rfl
@[simp] theorem dropWindow_sinkAfter (s : State) : (dropWindow s).sinkAfter = s.sinkAfter := rfl

@[simp] theorem report_st (e : Event) (s : State) : (report e s).st = s.st := rfl
@[simp] theorem report_cnt (e : Event) (s : State) : (report e s).cnt = s.cnt := rfl
@[simp] theorem report_buf (e : Event) (s : State) : (report e s).buf = s.buf := rfl
@[simp] theorem report_haltCause (e : Event) (s : State) : (report e s).haltCause = s.haltCause := rfl
@[simp] theorem report_evOut (e : Event) (s : State) : (report e s).evOut = e := rfl
@[simp] theorem report_unitOut (e : Event) (s : State) : (report e s).unitOut = s.unitOut := rfl
@[simp] theorem report_script (e : Event) (s : State) : (report e s).script = s.script := rfl
@[simp] theorem report_sinkReady (e : Event) (s : State) : (report e s).sinkReady = s.sinkReady := rfl
@[simp] theorem report_sinkAfter (e : Event) (s : State) : (report e s).sinkAfter = s.sinkAfter := rfl
@[simp] theorem report_none_trace (s : State) : (report .none s).trace = s.trace := rfl
theorem report_trace (e : Event) (s : State) (h : e ≠ .none) : (report e s).trace = s.trace ++ [.event e] := by
  cases e <;> first | exact absurd rfl h | rfl
@[simp] theorem report_reading_trace (r : Reading) (s : State) :
    (report (.reading r) s).trace = s.trace ++ [.event (.reading r)] := rfl
@[simp] theorem report_checksumDrop_trace (s : State) :
    (report .checksumDrop s).trace = s.trace ++ [.event .checksumDrop] := rfl
@[simp] theorem report_streamClosed_trace (s : State) :
    (report .streamClosed s).trace = s.trace ++ [.event .streamClosed] := rfl
@[simp] theorem report_transportError_trace (s : State) :
    (report .transportError s).trace = s.trace ++ [.event .transportError] := rfl

@[simp] theorem storeByte_st (b : Byte) (s : State) (h : s.cnt.val < Config.pktLen) :
    (storeByte b s h).st = s.st := rfl
@[simp] theorem storeByte_cnt (b : Byte) (s : State) (h : s.cnt.val < Config.pktLen) :
    (storeByte b s h).cnt = ⟨s.cnt.val + 1, Nat.succ_lt_succ h⟩ := rfl
@[simp] theorem storeByte_buf (b : Byte) (s : State) (h : s.cnt.val < Config.pktLen) :
    (storeByte b s h).buf = s.buf.set s.cnt.val b h := rfl
@[simp] theorem storeByte_haltCause (b : Byte) (s : State) (h : s.cnt.val < Config.pktLen) :
    (storeByte b s h).haltCause = s.haltCause := rfl
@[simp] theorem storeByte_evOut (b : Byte) (s : State) (h : s.cnt.val < Config.pktLen) :
    (storeByte b s h).evOut = s.evOut := rfl
@[simp] theorem storeByte_trace (b : Byte) (s : State) (h : s.cnt.val < Config.pktLen) :
    (storeByte b s h).trace = s.trace := rfl
@[simp] theorem storeByte_unitOut (b : Byte) (s : State) (h : s.cnt.val < Config.pktLen) :
    (storeByte b s h).unitOut = s.unitOut := rfl
@[simp] theorem storeByte_script (b : Byte) (s : State) (h : s.cnt.val < Config.pktLen) :
    (storeByte b s h).script = s.script := rfl
@[simp] theorem storeByte_sinkReady (b : Byte) (s : State) (h : s.cnt.val < Config.pktLen) :
    (storeByte b s h).sinkReady = s.sinkReady := rfl
@[simp] theorem storeByte_sinkAfter (b : Byte) (s : State) (h : s.cnt.val < Config.pktLen) :
    (storeByte b s h).sinkAfter = s.sinkAfter := rfl

@[simp] theorem raiseFatal_st (c : HaltCause) (s : State) : (raiseFatal c s).st = .halted := rfl
@[simp] theorem raiseFatal_cnt (c : HaltCause) (s : State) : (raiseFatal c s).cnt = 0 := rfl
@[simp] theorem raiseFatal_buf (c : HaltCause) (s : State) : (raiseFatal c s).buf = s.buf := rfl
@[simp] theorem raiseFatal_haltCause (c : HaltCause) (s : State) : (raiseFatal c s).haltCause = c := rfl
@[simp] theorem raiseFatal_evOut (c : HaltCause) (s : State) : (raiseFatal c s).evOut = haltEvent c := rfl
@[simp] theorem raiseFatal_unitOut (c : HaltCause) (s : State) : (raiseFatal c s).unitOut = s.unitOut := rfl
@[simp] theorem raiseFatal_script (c : HaltCause) (s : State) : (raiseFatal c s).script = s.script := rfl
@[simp] theorem raiseFatal_sinkReady (c : HaltCause) (s : State) : (raiseFatal c s).sinkReady = s.sinkReady := rfl
@[simp] theorem raiseFatal_sinkAfter (c : HaltCause) (s : State) : (raiseFatal c s).sinkAfter = s.sinkAfter := rfl
@[simp] theorem raiseFatal_streamClosed_trace (s : State) :
    (raiseFatal .streamClosed s).trace = s.trace ++ [.event .streamClosed] := rfl
@[simp] theorem raiseFatal_transportError_trace (s : State) :
    (raiseFatal .transportError s).trace = s.trace ++ [.event .transportError] := rfl

end Sys2Proof.Machine
end

