-- ==== Sys2Proof/Laws/Ops.lean ====
section
/-! SUPPORT. For each shared operation, once, everything it can do: the codec's check, the delivery of a Reading, the
taking of an input. -/

namespace Sys2Proof.Machine

/-- A word decodes exactly when sync and checksum hold, and then to its assembled fields (R80). -/
theorem decodePacket_eq_ok_iff (p : IngestPacket) (r : Reading) :
    decodePacket p = .ok r ↔
      p[0] = Config.sync ∧ checksum p[0] p[1] p[2] p[3] = p[4] ∧ r = ⟨assemble16 p[1] p[2], p[3]⟩ := by
  unfold decodePacket
  split_ifs with h0 h1
  · simp [h0]
  · simp only [ne_eq] at h1
    simp [h1]
  · simp only [ne_eq, Decidable.not_not] at h0 h1
    simp only [DecodeResult.ok.injEq]
    exact ⟨fun h => ⟨h0, h1, h.symm⟩, fun h => h.2.2.symm⟩

/-- A word that does not decode fails one of the two checks (R80). -/
theorem decodePacket_eq_err (p : IngestPacket) (e : DecodeError) (h : decodePacket p = .err e) :
    p[0] ≠ Config.sync ∨ checksum p[0] p[1] p[2] p[3] ≠ p[4] := by
  by_contra hn
  push Not at hn
  rw [(decodePacket_eq_ok_iff p _).2 ⟨hn.1, hn.2, rfl⟩] at h
  cases h

/-- What a Reading's delivery does when the sink takes its frame (R131). -/
theorem deliver_of_takes (r : Reading) (s : State) (h : sinkTakes s = true) :
    deliver r s =
      { s with
        st := .awaitSync
        cnt := 0
        evOut := .reading r
        trace := s.trace ++ [.event (.reading r), .frame (build r (classify r.voltageMv r.tempC))]
        sinkReady := s.sinkReady.tail } := by
  simp [deliver, h, resume, emit, report, sinkAnswered]

/-- What it does when the sink does not (R135). -/
theorem deliver_of_not_takes (r : Reading) (s : State) (h : sinkTakes s = false) :
    deliver r s = { s with sinkReady := s.sinkReady.tail } := by
  simp [deliver, h, sinkAnswered]

/-- The sink does not take a frame only by answering so, in the list or for good (R135, log 10). -/
theorem sinkTakes_eq_false_iff (s : State) :
    sinkTakes s = false ↔ (∃ later, s.sinkReady = false :: later) ∨ (s.sinkReady = [] ∧ s.sinkAfter = false) := by
  unfold sinkTakes
  cases s.sinkReady with
  | nil => simp
  | cons b later => cases b <;> simp

/-- A sink that is never ready takes nothing, and goes on taking nothing (R135, U9). -/
theorem sinkTakes_of_never_ready {s : State} (hl : ∀ b ∈ s.sinkReady, b = false) (ha : s.sinkAfter = false) :
    sinkTakes s = false := by
  rw [sinkTakes_eq_false_iff]
  cases h : s.sinkReady with
  | nil => exact .inr ⟨rfl, ha⟩
  | cons b later =>
    obtain rfl : b = false := hl b (by simp [h])
    exact .inl ⟨later, rfl⟩

/-- Delivery does one of two things (R131, R135). -/
theorem deliver_cases (r : Reading) (s : State) :
    deliver r s = { s with sinkReady := s.sinkReady.tail } ∨
    deliver r s =
      { s with
        st := .awaitSync
        cnt := 0
        evOut := .reading r
        trace := s.trace ++ [.event (.reading r), .frame (build r (classify r.voltageMv r.tempC))]
        sinkReady := s.sinkReady.tail } := by
  cases h : sinkTakes s
  · exact .inl (deliver_of_not_takes r s h)
  · exact .inr (deliver_of_takes r s h)

/-- The operation taken is the internal one, or the one the taken input selects; the script alone changes. -/
theorem fetch_eq_ok {s s' : State} {i : Instr} (h : fetch s = .ok (i, s')) :
    (nextInput s = none ∧ i = idleInstr s ∧ s' = s) ∨
    ∃ x rest, nextInput s = some (x, rest) ∧ decode s.st x = .ok i ∧ s' = { s with script := rest } := by
  unfold fetch at h
  split at h
  · rename_i x rest hx
    split at h
    · rename_i j hj
      cases h
      exact .inr ⟨x, rest, hx, hj, rfl⟩
    · cases h
  · rename_i hx
    cases h
    exact .inl ⟨hx, rfl, rfl⟩

/-- A reading block takes what stands first (R31). -/
theorem nextInput_of_reading {s : State} {x : Input} {rest : List Input}
    (hst : s.st = .awaitSync ∨ s.st = .accumulate) (h : s.script = x :: rest) : nextInput s = some (x, rest) := by
  unfold nextInput
  rcases hst with hst | hst <;> rw [hst, h]

/-- In VALIDATE a stream input is not taken (R99). -/
theorem nextInput_of_validate {s : State} {x : Input} {rest : List Input}
    (hst : s.st = .validate) (h : s.script = x :: rest) (hx : isStream x = true) : nextInput s = none := by
  unfold nextInput
  rw [hst, h]
  simp [hx]

/-- What is taken stands first in the script, or, in HALTED, does not stand in the stream (R99, log 1). -/
theorem nextInput_eq_some {s : State} {x : Input} {rest : List Input} (h : nextInput s = some (x, rest)) :
    s.script = x :: rest ∨ (s.st = .halted ∧ firstAside s.script = some (x, rest)) := by
  unfold nextInput at h
  split at h
  · cases h
  · cases h
    left; assumption
  · cases h
    left; assumption
  · split_ifs at h
    cases h
    left; assumption
  · rename_i heq
    right
    rw [heq]
    exact ⟨by assumption, h⟩

/-- Where nothing is offered, nothing is taken (R31). -/
theorem nextInput_nil {s : State} (h : s.script = []) : nextInput s = none := by
  unfold nextInput
  rw [h]

/-- Past what stands in the stream, the first input aside from it is the first after it (R99). -/
theorem firstAside_stream_append {xs : List Input} (h : ∀ x ∈ xs, isStream x = true) (rest : List Input) :
    firstAside (xs ++ rest) = (firstAside rest).map fun p => (p.1, xs ++ p.2) := by
  induction xs with
  | nil => simp
  | cons x xs ih =>
    have hx : isStream x = true := h x (by simp)
    simp only [List.cons_append, firstAside, hx, ih fun y hy => h y (by simp [hy])]
    cases firstAside rest <;> simp

/-- A halted block that is offered stream inputs alone takes none of them (R99, U5). -/
theorem nextInput_of_halted {s : State} (hst : s.st = .halted) (h : ∀ x ∈ s.script, isStream x = true) :
    nextInput s = none := by
  cases hs : s.script with
  | nil => exact nextInput_nil hs
  | cons x rest =>
    have hx := firstAside_stream_append (xs := s.script) h []
    rw [hs, List.append_nil] at hx
    unfold nextInput
    rw [hst, hs]
    exact hx

/-- What `firstAside` takes does not stand in the stream, and the script without it keeps its order (log 1). -/
theorem firstAside_eq_some {l : List Input} {x : Input} {rest : List Input} (h : firstAside l = some (x, rest)) :
    isStream x = false ∧ ∃ before after, l = before ++ x :: after ∧ rest = before ++ after ∧
      ∀ y ∈ before, isStream y = true := by
  induction l generalizing rest with
  | nil => cases h
  | cons y l ih =>
    unfold firstAside at h
    split at h
    · rename_i hy
      split at h
      · rename_i z others hz
        cases h
        obtain ⟨hx, before, after, h1, h2, h3⟩ := ih hz
        refine ⟨hx, y :: before, after, by simp [h1], by simp [h2], ?_⟩
        simpa [hy] using h3
      · cases h
    · rename_i hy
      cases h
      exact ⟨by simpa using hy, [], l, rfl, rfl, by simp⟩

end Sys2Proof.Machine
end

