-- ==== Sys2Proof/Laws/Exec.lean ====
section
/-! SUPPORT. What an operation and a step can do, said once: the inversion lemmas of `exec` and `step`. -/

namespace Sys2Proof.Machine

/-- A step that answers next ran the operation its fetch gave. -/
theorem step_eq_next {s t : State} (h : step s = .next t) :
    ∃ i s', fetch s = .ok (i, s') ∧ exec i s' = .next t := by
  unfold step at h
  split at h
  · rename_i i s' hf
    exact ⟨i, s', hf, h⟩
  · cases h

/-- A step that faults ran the operation its fetch gave. -/
theorem step_eq_fault {s : State} {f : Fault} (h : step s = .fault f) :
    ∃ i s', fetch s = .ok (i, s') ∧ exec i s' = .fault f := by
  unfold step at h
  split at h
  · rename_i i s' hf
    exact ⟨i, s', hf, h⟩
  · cases h

/-- A step whose fetch gives an operation is that operation. -/
theorem step_of_fetch {s s' : State} {i : Instr} (h : fetch s = .ok (i, s')) : step s = exec i s' := by
  unfold step
  rw [h]

/-- Every step that answers next is `exec` of one operation, the input it took (if any) gone from the script. -/
theorem step_next_cases {s t : State} (h : step s = .next t) :
    ∃ i l, exec i { s with script := l } = .next t ∧
      ((nextInput s = none ∧ i = idleInstr s ∧ l = s.script) ∨
        ∃ x, nextInput s = some (x, l) ∧ decode s.st x = .ok i) := by
  obtain ⟨i, s', hf, he⟩ := step_eq_next h
  rcases fetch_eq_ok hf with ⟨h1, h2, rfl⟩ | ⟨x, rest, h1, h2, rfl⟩
  · exact ⟨i, s'.script, he, .inl ⟨h1, h2, rfl⟩⟩
  · exact ⟨i, rest, he, .inr ⟨x, h1, h2⟩⟩

/-- The same for a step that faults. -/
theorem step_fault_cases {s : State} {f : Fault} (h : step s = .fault f) :
    ∃ i l, exec i { s with script := l } = .fault f ∧
      ((nextInput s = none ∧ i = idleInstr s ∧ l = s.script) ∨
        ∃ x, nextInput s = some (x, l) ∧ decode s.st x = .ok i) := by
  obtain ⟨i, s', hf, he⟩ := step_eq_fault h
  rcases fetch_eq_ok hf with ⟨h1, h2, rfl⟩ | ⟨x, rest, h1, h2, rfl⟩
  · exact ⟨i, s'.script, he, .inl ⟨h1, h2, rfl⟩⟩
  · exact ⟨i, rest, he, .inr ⟨x, h1, h2⟩⟩

/-- Every next state of `exec`: a recorded result, an offered chunk, or one of the resynchroniser's own moves. -/
theorem exec_eq_next {i : Instr} {s t : State} (h : exec i s = .next t) :
    (∃ r, t = answer r s) ∨
    (∃ a b c d, i = .ingestPacket a b c d ∧ t = offerChunk #v[Config.sync, a, b, c, d] s) ∨
    (i = .rxSync ∧ s.st = .awaitSync ∧
      t = report .none { s with buf := s.buf.set 0 Config.sync, cnt := 1, st := .accumulate }) ∨
    (∃ b, i = .rxSkip b ∧ s.st = .awaitSync ∧ b ≠ Config.sync ∧ t = report .none s) ∨
    (∃ b hlt, i = .rxData b ∧ s.st = .accumulate ∧ s.cnt.val + 1 = Config.pktLen ∧
      t = report .none (goTo .validate (storeByte b s hlt))) ∨
    (∃ b hlt, i = .rxData b ∧ s.st = .accumulate ∧ s.cnt.val + 1 < Config.pktLen ∧
      t = report .none (storeByte b s hlt)) ∨
    (∃ r, i = .validate ∧ s.st = .validate ∧ decodePacket s.buf = .ok r ∧ t = deliver r s) ∨
    (∃ e, i = .validate ∧ s.st = .validate ∧ decodePacket s.buf = .err e ∧ t = dropWindow s) ∨
    (i = .rxEos ∧ (s.st = .awaitSync ∨ s.st = .accumulate) ∧ t = raiseFatal .streamClosed s) ∨
    (i = .rxErr ∧ (s.st = .awaitSync ∨ s.st = .accumulate) ∧ t = raiseFatal .transportError s) ∨
    ((i = .rxNone ∨ ∃ tag, i = .tagReserved tag) ∧ t = s) ∨
    (∃ w, i = .rxRefused w ∧ s.st = .validate ∧ t = s) ∨
    (i = .reset ∧ t = resetBlock s) := by
  cases i
  case ingestPacket a b c d => cases h; exact .inr (.inl ⟨a, b, c, d, rfl, rfl⟩)
  case tagReserved tag =>
    cases h
    exact .inr (.inr (.inr (.inr (.inr (.inr (.inr (.inr (.inr (.inr (.inl ⟨.inr ⟨tag, rfl⟩, rfl⟩))))))))))
  case rxSync =>
    simp only [exec, execRxSync] at h
    split at h <;> cases h
    rename_i hst
    exact .inr (.inr (.inl ⟨rfl, hst, rfl⟩))
  case rxSkip b =>
    simp only [exec, execRxSkip] at h
    split at h <;> try cases h
    rename_i hst
    split_ifs at h with hb
    cases h
    exact .inr (.inr (.inr (.inl ⟨b, rfl, hst, hb, rfl⟩)))
  case rxData b =>
    simp only [exec, execRxData] at h
    split at h <;> try cases h
    rename_i hst
    split_ifs at h with hlt h5
    · cases h
      exact .inr (.inr (.inr (.inr (.inl ⟨b, hlt, rfl, hst, h5, rfl⟩))))
    · cases h
      exact .inr (.inr (.inr (.inr (.inr (.inl ⟨b, hlt, rfl, hst, by omega, rfl⟩)))))
  case validate =>
    simp only [exec, execValidate] at h
    split at h <;> try cases h
    rename_i hst
    split at h <;> cases h
    · rename_i r hr
      exact .inr (.inr (.inr (.inr (.inr (.inr (.inl ⟨r, rfl, hst, hr, rfl⟩))))))
    · rename_i hr
      exact .inr (.inr (.inr (.inr (.inr (.inr (.inr (.inl ⟨_, rfl, hst, hr, rfl⟩)))))))
    · rename_i hr
      exact .inr (.inr (.inr (.inr (.inr (.inr (.inr (.inl ⟨_, rfl, hst, hr, rfl⟩)))))))
  case rxEos =>
    simp only [exec, execRxEos] at h
    split at h <;> cases h <;> rename_i hst
    · exact .inr (.inr (.inr (.inr (.inr (.inr (.inr (.inr (.inl ⟨rfl, .inl hst, rfl⟩))))))))
    · exact .inr (.inr (.inr (.inr (.inr (.inr (.inr (.inr (.inl ⟨rfl, .inr hst, rfl⟩))))))))
  case rxErr =>
    simp only [exec, execRxErr] at h
    split at h <;> cases h <;> rename_i hst
    · exact .inr (.inr (.inr (.inr (.inr (.inr (.inr (.inr (.inr (.inl ⟨rfl, .inl hst, rfl⟩)))))))))
    · exact .inr (.inr (.inr (.inr (.inr (.inr (.inr (.inr (.inr (.inl ⟨rfl, .inr hst, rfl⟩)))))))))
  case rxNone =>
    cases h
    exact .inr (.inr (.inr (.inr (.inr (.inr (.inr (.inr (.inr (.inr (.inl ⟨.inl rfl, rfl⟩))))))))))
  case rxRefused w =>
    simp only [exec, execRxRefused] at h
    split at h <;> cases h
    rename_i hst
    exact .inr (.inr (.inr (.inr (.inr (.inr (.inr (.inr (.inr (.inr (.inr (.inl ⟨w, rfl, hst, rfl⟩)))))))))))
  case reset =>
    cases h
    exact .inr (.inr (.inr (.inr (.inr (.inr (.inr (.inr (.inr (.inr (.inr (.inr ⟨rfl, rfl⟩)))))))))))
  all_goals
    cases h
    exact .inl ⟨_, rfl⟩

end Sys2Proof.Machine
end

