-- ==== Sys2Proof/Laws/PerInstr.lean ====
section
/-! SUPPORT. One family of facts about the operations as syntax: a word the encoder writes has its port's number of
bytes (R38, R57). One lemma per constructor of `Instr`. -/

namespace Sys2Proof.Laws

open Sys2Proof

/-- Where the encoder writes a port word, it writes as many bytes as the port takes. -/
def EncodedWidth.Statement (i : Instr) : Prop :=
  ∀ (p : Port) (bytes : List Byte), encode i = some (.word p bytes) → bytes.length = portBytes p

theorem EncodedWidth.ingestPacket (h l t c : Byte) : EncodedWidth.Statement (.ingestPacket h l t c) := by
  intro p bytes h
  simp only [Sys2Proof.encode, Option.some.injEq, Input.word.injEq] at h
  obtain ⟨rfl, rfl⟩ := h
  rfl

theorem EncodedWidth.egressFrameBig (h l t : Byte) (c : StatusCode) : EncodedWidth.Statement (.egressFrameBig h l t c) := by
  intro p bytes h
  simp only [Sys2Proof.encode, Option.some.injEq, Input.word.injEq] at h
  obtain ⟨rfl, rfl⟩ := h
  rfl

theorem EncodedWidth.egressFrameLittle (h l t : Byte) (c : StatusCode) : EncodedWidth.Statement (.egressFrameLittle h l t c) := by
  intro p bytes h
  simp only [Sys2Proof.encode, Option.some.injEq, Input.word.injEq] at h
  obtain ⟨rfl, rfl⟩ := h
  rfl

theorem EncodedWidth.tagOk : EncodedWidth.Statement (.tagOk) := by
  intro p bytes h
  simp only [Sys2Proof.encode, Option.some.injEq, Input.word.injEq] at h
  obtain ⟨rfl, rfl⟩ := h
  rfl

theorem EncodedWidth.tagWarnLowVolt : EncodedWidth.Statement (.tagWarnLowVolt) := by
  intro p bytes h
  simp only [Sys2Proof.encode, Option.some.injEq, Input.word.injEq] at h
  obtain ⟨rfl, rfl⟩ := h
  rfl

theorem EncodedWidth.tagCritTemp : EncodedWidth.Statement (.tagCritTemp) := by
  intro p bytes h
  simp only [Sys2Proof.encode, Option.some.injEq, Input.word.injEq] at h
  obtain ⟨rfl, rfl⟩ := h
  rfl

theorem EncodedWidth.tagReserved (s : Byte) : EncodedWidth.Statement (.tagReserved s) := by
  intro p bytes h
  simp only [Sys2Proof.encode, Option.some.injEq, Input.word.injEq] at h
  obtain ⟨rfl, rfl⟩ := h
  rfl

theorem EncodedWidth.checksum (a b c d : Byte) : EncodedWidth.Statement (.checksum a b c d) := by
  intro p bytes h
  simp only [Sys2Proof.encode, Option.some.injEq, Input.word.injEq] at h
  obtain ⟨rfl, rfl⟩ := h
  rfl

theorem EncodedWidth.split16 (v : Word16) : EncodedWidth.Statement (.split16 v) := by
  intro p bytes h
  simp only [Sys2Proof.encode, Option.some.injEq, Input.word.injEq] at h
  obtain ⟨rfl, rfl⟩ := h
  rfl

theorem EncodedWidth.encode (v : Word16) (t : Byte) : EncodedWidth.Statement (.encode v t) := by
  intro p bytes h
  simp only [Sys2Proof.encode, Option.some.injEq, Input.word.injEq] at h
  obtain ⟨rfl, rfl⟩ := h
  rfl

theorem EncodedWidth.decode (a b c d e : Byte) : EncodedWidth.Statement (.decode a b c d e) := by
  intro p bytes h
  simp only [Sys2Proof.encode, Option.some.injEq, Input.word.injEq] at h
  obtain ⟨rfl, rfl⟩ := h
  rfl

theorem EncodedWidth.classify (v : Word16) (t : Byte) : EncodedWidth.Statement (.classify v t) := by
  intro p bytes h
  simp only [Sys2Proof.encode, Option.some.injEq, Input.word.injEq] at h
  obtain ⟨rfl, rfl⟩ := h
  rfl

theorem EncodedWidth.build (v : Word16) (t : Byte) (c : StatusCode) : EncodedWidth.Statement (.build v t c) := by
  intro p bytes h
  simp only [Sys2Proof.encode, Option.some.injEq, Input.word.injEq] at h
  obtain ⟨rfl, rfl⟩ := h
  rfl

theorem EncodedWidth.serialize (id : Word32) (n : Byte) (p : Vector Byte Config.payloadLen) : EncodedWidth.Statement (.serialize id n p) := by
  intro p bytes h
  simp only [Sys2Proof.encode, Option.some.injEq, Input.word.injEq] at h
  obtain ⟨rfl, rfl⟩ := h
  simp [bytes32, portBytes]

theorem EncodedWidth.rxSync : EncodedWidth.Statement (.rxSync) := by
  intro p bytes h; simp [Sys2Proof.encode] at h

theorem EncodedWidth.rxSkip (b : Byte) : EncodedWidth.Statement (.rxSkip b) := by
  intro p bytes h; simp [Sys2Proof.encode] at h

theorem EncodedWidth.rxData (b : Byte) : EncodedWidth.Statement (.rxData b) := by
  intro p bytes h; simp [Sys2Proof.encode] at h

theorem EncodedWidth.validate : EncodedWidth.Statement (.validate) := by
  intro p bytes h; simp [Sys2Proof.encode] at h

theorem EncodedWidth.rxEos : EncodedWidth.Statement (.rxEos) := by
  intro p bytes h; simp [Sys2Proof.encode] at h

theorem EncodedWidth.rxErr : EncodedWidth.Statement (.rxErr) := by
  intro p bytes h; simp [Sys2Proof.encode] at h

theorem EncodedWidth.rxNone : EncodedWidth.Statement (.rxNone) := by
  intro p bytes h; simp [Sys2Proof.encode] at h

theorem EncodedWidth.rxRefused (w : EventWord) : EncodedWidth.Statement (.rxRefused w) := by
  intro p bytes h; simp [Sys2Proof.encode] at h

theorem EncodedWidth.reset : EncodedWidth.Statement (.reset) := by
  intro p bytes h; simp [Sys2Proof.encode] at h

end Sys2Proof.Laws
end

