-- ==== Sys2Proof/Laws/Run.lean ====
section
/-! SUPPORT. Laws of runs and of output traces: a run is the host's run, runs compose, traces are read piece by
piece. -/

namespace Sys2Proof

open Machine

theorem core_run_eq_runSteps (n : Nat) (s : State) : Host.Core.run core n s = runSteps n s := by
  induction n generalizing s with
  | zero => rfl
  | succ n ih =>
    cases h : step s with
    | next t =>
      have hc : core.step s = .next t := h
      simp only [Host.Core.run, runSteps, h, hc]
      exact ih t
    | fault r =>
      have hc : core.step s = .fault r := h
      simp only [Host.Core.run, runSteps, h, hc]
      rfl
    | refused r =>
      have hc : core.step s = .refused r := h
      simp only [Host.Core.run, runSteps, h, hc]
      rfl

theorem runSteps_succ {s t : State} (n : Nat) (h : step s = .next t) : runSteps (n + 1) s = runSteps n t := by
  simp only [runSteps, h]

theorem runSteps_add {n m : Nat} {s t : State} (h : runSteps n s = .next t) :
    runSteps (n + m) s = runSteps m t := by
  induction n generalizing s with
  | zero => cases h; simp
  | succ n ih =>
    rw [Nat.succ_add]
    simp only [runSteps] at h ⊢
    split at h
    · exact ih h
    · cases h
    · cases h

@[simp] theorem framesOf_append (a b : List Output) : framesOf (a ++ b) = framesOf a ++ framesOf b := by
  induction a with
  | nil => rfl
  | cons x a ih => cases x <;> simp [framesOf, ih]

@[simp] theorem readingsOf_append (a b : List Output) : readingsOf (a ++ b) = readingsOf a ++ readingsOf b := by
  induction a with
  | nil => rfl
  | cons x a ih =>
    cases x with
    | frame f => simp [readingsOf, ih]
    | event e => cases e <;> simp [readingsOf, ih]

/-- Where no input is taken, the step is the internal operation of the state (R59, R94, R99, R104). -/
theorem step_of_nextInput_none {s : State} (h : nextInput s = none) : step s = exec (idleInstr s) s := by
  apply step_of_fetch
  unfold fetch
  rw [h]

/-- In VALIDATE, with nothing but the stream first, the step is VALIDATE's (R94, R99). -/
theorem step_of_validate {s : State} (hst : s.st = .validate) (h : StreamFirst s.script) :
    step s = exec .validate s := by
  have hn : nextInput s = none := by
    cases hs : s.script with
    | nil => exact nextInput_nil hs
    | cons x rest =>
      rw [hs] at h
      exact nextInput_of_validate hst hs h
  rw [step_of_nextInput_none hn]
  simp [idleInstr, hst]

/-- A state that stands for no resting state of the fused form stands in VALIDATE (R24, R100). -/
theorem restingOf_eq_none_iff (s : State) : restingOf s = none ↔ s.st = .validate := by
  unfold restingOf
  cases s.st <;> simp

/-- The fused form halts for good: where one event has no step, no event has one (R99, R100). -/
theorem fusedStep_eq_none {q : Resting} {e : RxEvent} (h : fusedStep q e = none) : ∃ c, q = .halted c := by
  unfold fusedStep at h
  split at h <;> try cases h
  · split_ifs at h
  · split at h <;> cases h
  · exact ⟨_, rfl⟩

/-- The fold of the fused step over two reads is the fold over both (R101). -/
theorem runEvents_append (q : Resting) (c1 c2 : List RxEvent) :
    runEvents q (c1 ++ c2) =
      ((runEvents (runEvents q c1).1 c2).1, (runEvents q c1).2 ++ (runEvents (runEvents q c1).1 c2).2) := by
  induction c1 generalizing q with
  | nil => simp [runEvents]
  | cons e es ih =>
    simp only [List.cons_append, runEvents]
    cases h : fusedStep q e with
    | none =>
      obtain ⟨c, rfl⟩ := fusedStep_eq_none h
      cases c2 <;> simp [runEvents, fusedStep]
    | some p =>
      simp only [ih p.1, List.append_assoc]

@[simp] theorem eventInputs_nil : eventInputs [] = [] := rfl

@[simp] theorem eventInputs_cons (e : RxEvent) (es : List RxEvent) :
    eventInputs (e :: es) = .event (eventWord e) :: eventInputs es := rfl

@[simp] theorem eventInputs_append (a b : List RxEvent) :
    eventInputs (a ++ b) = eventInputs a ++ eventInputs b := by
  simp [eventInputs]

theorem streamFirst_eventInputs (es : List RxEvent) : StreamFirst (eventInputs es) := by
  cases es <;> rfl

end Sys2Proof
end

