-- ==== Sys2Proof/Tests/Slice0.lean ====
section
/-! SUPPORT. Tests: what the well-formedness check refuses, words written out from the spec's encodings, one step
each from the spec's vectors (`95_test_vectors.md`), and for every statement with hypotheses a concrete state and
operands that meet them, at the boundary values of its clauses. -/

namespace Sys2Proof.Tests

open Sys2Proof Sys2Proof.Machine

/-! ## Helpers -/

/-- The outcome is a next state with this property. -/
def answers (o : Host.Outcome State Fault Refusal) (p : State → Bool) : Bool :=
  match o with
  | .next t => p t
  | .fault _ => false
  | .refused _ => false

/-- The outcome is this fault. -/
def faults (o : Host.Outcome State Fault Refusal) (f : Fault) : Bool :=
  match o with
  | .next _ => false
  | .fault g => g == f
  | .refused _ => false

/-- The outcome is this refusal. -/
def refuses (o : Host.Outcome State Fault Refusal) (r : Refusal) : Bool :=
  match o with
  | .next _ => false
  | .fault _ => false
  | .refused q => q == r

/-- The decoder's answer is this operation. -/
def reads (st : St) (x : Input) (i : Instr) : Bool :=
  match decode st x with
  | .ok j => j == i
  | .error _ => false

/-- The decoder refuses with this reason. -/
def readsNot (st : St) (x : Input) (why : Unreadable) : Bool :=
  match decode st x with
  | .ok _ => false
  | .error e => e == why

/-- The reset state with these inputs offered. -/
def offered (xs : List Input) : State := { State.reset with script := xs }

/-- A window of `n` bytes in ACCUMULATE. -/
def reading (n : Fin 6) (buf : Vector Byte 5) (xs : List Input) : State :=
  { State.reset with st := .accumulate, cnt := n, buf := buf, script := xs }

/-- A complete window. -/
def complete (buf : Vector Byte 5) (xs : List Input) : State :=
  { State.reset with st := .validate, cnt := 5, buf := buf, script := xs }

/-- A halted block. -/
def stopped (c : HaltCause) (xs : List Input) : State :=
  { State.reset with st := .halted, haltCause := c, script := xs }

/-- The valid window of scenario S7, corrected by C1. -/
def goodWindow : Vector Byte 5 := #v[0xAA#8, 0x0C#8, 0xE4#8, 0x2D#8, 0xC7#8]

/-- The window of S7 as printed: its checksum is wrong. -/
def badWindow : Vector Byte 5 := #v[0xAA#8, 0x0C#8, 0xE4#8, 0x2D#8, 0x47#8]

/-- The good window complete, with these answers of the sink: a list, and what stands after it. -/
def toSink (ready : List Bool) (after : Bool) (xs : List Input) : State :=
  { complete goodWindow xs with sinkReady := ready, sinkAfter := after }

/-- The event word `0x1NN` of R65. -/
def rx (b : Byte) : Input := .event (0x100#11 ||| b.setWidth 11)

/-! ## What is not well formed, or not selected -/

/-- R51: the checksum of a valid packet is fixed. -/
theorem test_wf_corrupt_packet_refused : wellFormed (.ingestPacket 0x0C#8 0xE4#8 0x2D#8 0x47#8) = false := by decide

theorem test_wf_good_packet : wellFormed (.ingestPacket 0x0C#8 0xE4#8 0x2D#8 0xC7#8) = true := by decide

/-- R62: 0x02 is no reserved tag, 0x03 is the first. -/
theorem test_wf_reserved_tag_refused : wellFormed (.tagReserved 0x02#8) = false := by decide

theorem test_wf_reserved_tag : wellFormed (.tagReserved 0x03#8) = true := by decide

/-- R91: the sync byte is never skipped. -/
theorem test_wf_skip_sync_refused : wellFormed (.rxSkip 0xAA#8) = false := by decide

/-- R59: what `st` does not select. -/
theorem test_enabled_none_of_these :
    enabledIn .accumulate .rxSync = false ∧ enabledIn .accumulate (.rxSkip 0#8) = false ∧
    enabledIn .awaitSync (.rxData 0#8) = false ∧ enabledIn .accumulate .validate = false ∧
    enabledIn .validate .rxEos = false ∧ enabledIn .halted .rxErr = false ∧ enabledIn .halted .rxNone = false ∧
    enabledIn .awaitSync (.rxRefused 0#11) = false := by decide

/-! ## Words written out from the spec's encodings -/

/-- R50, R51: `10101010 h l t c`. -/
theorem test_decode_ingest_packet :
    reads .awaitSync (.word .pkt [0b10101010#8, 0x0C#8, 0xE4#8, 0x2D#8, 0xC7#8])
      (.ingestPacket 0x0C#8 0xE4#8 0x2D#8 0xC7#8) = true := by decide

/-- R53, table T8 row 2. -/
theorem test_decode_frame_big :
    reads .awaitSync
      (.word .frmBig [0#8, 0#8, 1#8, 0#8, 8#8, 0x0C#8, 0xE4#8, 0x46#8, 2#8, 0#8, 0#8, 0#8, 0#8])
      (.egressFrameBig 0x0C#8 0xE4#8 0x46#8 .critTemp) = true := by decide

/-- R53, table T8 row 1. -/
theorem test_decode_frame_little :
    reads .awaitSync
      (.word .frmLittle [0#8, 1#8, 0#8, 0#8, 8#8, 0x0C#8, 0xE4#8, 0x2D#8, 0#8, 0#8, 0#8, 0#8, 0#8])
      (.egressFrameLittle 0x0C#8 0xE4#8 0x2D#8 .ok) = true := by decide

/-- R54, R62. -/
theorem test_decode_tags :
    reads .halted (.word .tag [0b00000000#8]) .tagOk = true ∧
    reads .halted (.word .tag [0b00000001#8]) .tagWarnLowVolt = true ∧
    reads .halted (.word .tag [0b00000010#8]) .tagCritTemp = true ∧
    reads .halted (.word .tag [0b00000011#8]) (.tagReserved 3#8) = true := by decide

/-- R57: the first-named operand is the most significant. -/
theorem test_decode_operand_words :
    reads .awaitSync (.word .checksum [0xAA#8, 0x0C#8, 0xE4#8, 0x2D#8])
      (.checksum 0xAA#8 0x0C#8 0xE4#8 0x2D#8) = true ∧
    reads .awaitSync (.word .split16 [0x0C#8, 0xE4#8]) (.split16 3300#16) = true ∧
    reads .awaitSync (.word .encode [0x0C#8, 0x1C#8, 0x3C#8]) (.encode 3100#16 60#8) = true ∧
    reads .awaitSync (.word .decode [0x55#8, 0x0C#8, 0xE4#8, 0x2D#8, 0x72#8])
      (.decode 0x55#8 0x0C#8 0xE4#8 0x2D#8 0x72#8) = true ∧
    reads .awaitSync (.word .classify [0x0C#8, 0x1B#8, 0x3D#8]) (.classify 3099#16 61#8) = true := by decide

theorem test_decode_frame_operand_words :
    reads .awaitSync (.word .build [0x0B#8, 0xB8#8, 0x14#8, 0x01#8]) (.build 3000#16 20#8 .warnLowVolt) = true ∧
    reads .awaitSync
      (.word .serialize [0x12#8, 0x34#8, 0x56#8, 0x78#8, 9#8, 1#8, 2#8, 3#8, 4#8, 5#8, 6#8, 7#8, 8#8])
      (.serialize 0x12345678#32 9#8 #v[1#8, 2#8, 3#8, 4#8, 5#8, 6#8, 7#8, 8#8]) = true := by decide

/-- R58, R59, R65: event words, by state. -/
theorem test_decode_events :
    reads .awaitSync (.event 0b00110101010#11) .rxSync = true ∧
    reads .awaitSync (.event 0b00110101011#11) (.rxSkip 0xAB#8) = true ∧
    reads .accumulate (.event 0b00110101010#11) (.rxData 0xAA#8) = true ∧
    reads .accumulate (.event 0b01000000000#11) .rxEos = true ∧
    reads .awaitSync (.event 0b10000000000#11) .rxErr = true ∧
    reads .awaitSync (.event 0b00011111111#11) .rxNone = true ∧
    reads .validate (.event 0b00110101010#11) (.rxRefused 0x1AA#11) = true ∧
    reads .halted (.event 0b00110101010#11) (.rxRefused 0x1AA#11) = true ∧
    reads .halted .reset .reset = true := by decide

/-- R58: ERR before EOS before BYTE, where several wires are driven. -/
theorem test_decode_event_priority :
    reads .accumulate (.event 0b11111110000#11) .rxErr = true ∧
    reads .accumulate (.event 0b01111110000#11) .rxEos = true := by decide

/-- R60, R63, R38: words that are no words of their port. -/
theorem test_decode_unreadable :
    readsNot .awaitSync (.word .pkt [0xAB#8, 0x0C#8, 0xE4#8, 0x2D#8, 0xC8#8]) .notPacket = true ∧
    readsNot .awaitSync
      (.word .frmBig [0#8, 1#8, 0#8, 0#8, 8#8, 0x0C#8, 0xE4#8, 0x2D#8, 0#8, 0#8, 0#8, 0#8, 0#8]) .notFrame = true ∧
    readsNot .awaitSync (.word .decode [0xAA#8, 0#8, 0#8, 0#8]) .wrongLength = true := by decide

/-- A word of the port's length that is no word of its format is refused by the step (log 16). -/
theorem test_step_unreadable :
    refuses (step (offered [.word .pkt [0#8, 0#8, 0#8, 0#8, 0#8]])) (.unreadable .notPacket) = true := by decide

/-- The table's own numbering (log 14). -/
theorem test_table_words :
    decodeTableWord 40 0xAA0CE42DC7 = some (.ingestPacket 0x0C#8 0xE4#8 0x2D#8 0xC7#8) ∧
    decodeTableWord 104 0x00000100080000000000000000 = some (.egressFrameBig 0#8 0#8 0#8 .ok) ∧
    decodeTableWord 104 0x00010000080000000000000000 = some (.egressFrameLittle 0#8 0#8 0#8 .ok) ∧
    decodeTableWord 8 0x02 = some .tagCritTemp ∧ decodeTableWord 16 0x1AA = some .rxSync ∧
    decodeTableWord 16 0x400 = some .rxErr ∧ decodeTableWord 24 0x0CE42D = some (.encode 3300#16 45#8) ∧
    decodeTableWord 1 1 = some .reset := by decide

theorem test_with_fetch_word_runs_the_word :
    answers (step (State.reset.withFetchWord 16 0x1AA)) (fun t => t.st == .accumulate && t.cnt == 1) = true ∧
    answers (step ((stopped .streamClosed []).withFetchWord 1 1)) (fun t => t.st == .awaitSync) = true := by decide

/-! ## Formats and units, one step each -/

/-- R34, R66: the five events of a packet. -/
theorem test_ingest_packet_offers :
    answers (step (offered [.word .pkt goodWindow.toList]))
      (fun t => t.script == [rx 0xAA#8, rx 0x0C#8, rx 0xE4#8, rx 0x2D#8, rx 0xC7#8]) = true := by decide

/-- R99: a packet on the wire waits while a window is validated. -/
theorem test_ingest_packet_waits :
    answers (step (complete goodWindow [.word .pkt goodWindow.toList]))
      (fun t => t.script == [.word .pkt goodWindow.toList] && t.st == .awaitSync) = true := by decide

/-- R52: the frame a serial form stands for. -/
theorem test_frame_big_reads :
    answers (exec (.egressFrameBig 0x0C#8 0xE4#8 0x46#8 .critTemp) State.reset)
      (fun t => t.unitOut == [.frameRead .big ⟨0x100#32, 8#8, #v[0x0C#8, 0xE4#8, 0x46#8, 2#8, 0#8, 0#8, 0#8, 0#8]⟩]) =
      true := by decide

theorem test_frame_little_reads :
    answers (exec (.egressFrameLittle 0x0C#8 0xE4#8 0x2D#8 .ok) State.reset)
      (fun t => t.unitOut == [.frameRead .little ⟨0x100#32, 8#8, #v[0x0C#8, 0xE4#8, 0x2D#8, 0#8, 0#8, 0#8, 0#8, 0#8]⟩]) =
      true := by decide

/-- R54. -/
theorem test_tags_read :
    answers (exec .tagOk State.reset) (fun t => t.unitOut == [.tagRead .ok]) = true ∧
    answers (exec .tagWarnLowVolt State.reset) (fun t => t.unitOut == [.tagRead .warnLowVolt]) = true ∧
    answers (exec .tagCritTemp State.reset) (fun t => t.unitOut == [.tagRead .critTemp]) = true := by decide

/-- R62, U2: no frame, and nothing changes. -/
theorem test_tag_reserved_produces_nothing :
    answers (step (offered [.word .tag [0x03#8]])) (fun t => t == State.reset) = true ∧
    answers (step (offered [.word .build [0#8, 0#8, 0#8, 0xFF#8]])) (fun t => t == State.reset) = true := by decide

/-- Table T1 rows 1 and 4. -/
theorem test_checksum :
    answers (exec (.checksum 0xAA#8 0x0C#8 0xE4#8 0x2D#8) State.reset)
      (fun t => t.unitOut == [.checksum 0xC7#8]) = true ∧
    answers (exec (.checksum 0xAA#8 0x01#8 0x55#8 0x00#8) State.reset)
      (fun t => t.unitOut == [.checksum 0x00#8]) = true := by decide

/-- Table T2, 3300. -/
theorem test_split16 :
    answers (exec (.split16 3300#16) State.reset) (fun t => t.unitOut == [.split16 0x0C#8 0xE4#8]) = true := by decide

/-- Table T3, the largest Reading and {341, 0}. -/
theorem test_encode :
    answers (exec (.encode 65535#16 255#8) State.reset)
      (fun t => t.unitOut == [.encoded #v[0xAA#8, 0xFF#8, 0xFF#8, 0xFF#8, 0xA7#8]]) = true ∧
    answers (exec (.encode 341#16 0#8) State.reset)
      (fun t => t.unitOut == [.encoded #v[0xAA#8, 0x01#8, 0x55#8, 0x00#8, 0x00#8]]) = true := by decide

/-- Table T4 rows 1 and 9: the swapped bytes are accepted. -/
theorem test_decode_accepts :
    answers (exec (.decode 0xAA#8 0x0C#8 0xE4#8 0x2D#8 0xC7#8) State.reset)
      (fun t => t.unitOut == [.decoded (.ok ⟨3300#16, 45#8⟩)]) = true ∧
    answers (exec (.decode 0xAA#8 0xE4#8 0x0C#8 0x2D#8 0xC7#8) State.reset)
      (fun t => t.unitOut == [.decoded (.ok ⟨58380#16, 45#8⟩)]) = true := by decide

/-- Table T4 rows 3 and 10. -/
theorem test_decode_rejects :
    answers (exec (.decode 0xAB#8 0x0C#8 0xE4#8 0x2D#8 0xC8#8) State.reset)
      (fun t => t.unitOut == [.decoded (.err .syncMismatch)]) = true ∧
    answers (exec (.decode 0xAA#8 0x0C#8 0xE4#8 0x2D#8 0x47#8) State.reset)
      (fun t => t.unitOut == [.decoded (.err .checksumMismatch)]) = true := by decide

/-- Table T6: the boundaries. -/
theorem test_classify_boundaries :
    classify 3100#16 60#8 = .ok ∧ classify 3099#16 60#8 = .warnLowVolt ∧ classify 3100#16 61#8 = .critTemp ∧
    classify 0#16 61#8 = .critTemp ∧ classify 3300#16 128#8 = .critTemp := by decide

theorem test_classify :
    answers (exec (.classify 3099#16 61#8) State.reset) (fun t => t.unitOut == [.classified .critTemp]) = true := by
  decide

/-- Table T7 row 3. -/
theorem test_build :
    answers (exec (.build 3000#16 20#8 .warnLowVolt) State.reset)
      (fun t => t.unitOut == [.built ⟨0x100#32, 8#8, #v[0x0B#8, 0xB8#8, 0x14#8, 1#8, 0#8, 0#8, 0#8, 0#8]⟩]) = true := by
  decide

/-- Table T8 row 1; the machine's own order is open, so the function is tested (log 11). -/
theorem test_serialize :
    serialize ⟨0x100#32, 8#8, #v[0x0C#8, 0xE4#8, 0x2D#8, 0#8, 0#8, 0#8, 0#8, 0#8]⟩ .big =
      #v[0#8, 0#8, 1#8, 0#8, 8#8, 0x0C#8, 0xE4#8, 0x2D#8, 0#8, 0#8, 0#8, 0#8, 0#8] ∧
    serialize ⟨0x100#32, 8#8, #v[0x0C#8, 0xE4#8, 0x2D#8, 0#8, 0#8, 0#8, 0#8, 0#8]⟩ .little =
      #v[0#8, 1#8, 0#8, 0#8, 8#8, 0x0C#8, 0xE4#8, 0x2D#8, 0#8, 0#8, 0#8, 0#8, 0#8] := by decide

/-- The ports' numeric codes (R13, R144). -/
theorem test_port_codes :
    stCode .halted = 3#2 ∧ decodeCode (.err .checksumMismatch) = 2#2 ∧ haltCode .transportError = 2#2 ∧
    eventKind .checksumDrop = 2#3 := by decide

/-! ## The resynchroniser, one step each (table T5) -/

/-- T5 row 2. -/
theorem test_rx_sync :
    answers (step (offered [rx 0xAA#8]))
      (fun t => t.st == .accumulate && t.cnt == 1 && t.buf[0] == 0xAA#8 && t.script == []) = true := by decide

/-- T5 rows 1 and 4. -/
theorem test_rx_skip :
    answers (step (offered [rx 0x01#8])) (fun t => t == State.reset) = true ∧
    answers (step (offered [rx 0xAB#8])) (fun t => t == State.reset) = true := by decide

/-- T5 row 6: a sync byte inside a window is data. -/
theorem test_rx_data_stores_sync_byte :
    answers (step (reading 1 #v[0xAA#8, 7#8, 7#8, 7#8, 7#8] [rx 0xAA#8]))
      (fun t => t.st == .accumulate && t.cnt == 2 && t.buf == #v[0xAA#8, 0xAA#8, 7#8, 7#8, 7#8]) = true := by decide

/-- T5 row 7, unfused: the fifth byte. -/
theorem test_rx_data_completes :
    answers (step (reading 4 #v[0xAA#8, 0x0C#8, 0xE4#8, 0x2D#8, 0#8] [rx 0xC7#8]))
      (fun t => t.st == .validate && t.cnt == 5 && t.buf == goodWindow && t.evOut == .none) = true := by decide

/-- T5 row 7, unfused: the internal step, before the end of stream that stands offered (C2). -/
theorem test_validate_delivers :
    answers (step (complete goodWindow [.event 0x200#11]))
      (fun t => t.st == .awaitSync && t.cnt == 0 && t.evOut == .reading ⟨3300#16, 45#8⟩ &&
        t.script == [.event 0x200#11] &&
        t.trace == [.event (.reading ⟨3300#16, 45#8⟩),
          .frame ⟨0x100#32, 8#8, #v[0x0C#8, 0xE4#8, 0x2D#8, 0#8, 0#8, 0#8, 0#8, 0#8]⟩]) = true := by decide

/-- T5 row 8. -/
theorem test_validate_drops :
    answers (step (complete badWindow []))
      (fun t => t.st == .awaitSync && t.cnt == 0 && t.trace == [.event .checksumDrop]) = true := by decide

/-- T5 row 11. -/
theorem test_rx_eos :
    answers (step (reading 3 #v[0xAA#8, 0x0C#8, 0xE4#8, 0#8, 0#8] [.event 0x200#11]))
      (fun t => t.st == .halted && t.cnt == 0 && t.haltCause == .streamClosed && t.evOut == .streamClosed) = true := by
  decide

/-- T5 row 13. -/
theorem test_rx_err :
    answers (step (reading 4 #v[0xAA#8, 0x0C#8, 0xE4#8, 0x2D#8, 0#8] [.event 0x400#11]))
      (fun t => t.st == .halted && t.cnt == 0 && t.haltCause == .transportError &&
        t.trace == [.event .transportError]) = true := by decide

/-- R104: an idle port. -/
theorem test_rx_none :
    answers (step (reading 2 #v[0xAA#8, 0x0C#8, 0#8, 0#8, 0#8] [.event 0x000#11]))
      (fun t => t == reading 2 #v[0xAA#8, 0x0C#8, 0#8, 0#8, 0#8] []) = true := by decide

/-- T5 row 14, and the event that waits for VALIDATE (R99). -/
theorem test_rx_refused :
    faults (step (stopped .streamClosed [rx 0xAA#8])) .halted = true ∧
    answers (exec (.rxRefused 0x1AA#11) (complete goodWindow [])) (fun t => t == complete goodWindow []) = true := by
  decide

/-- T5 rows 15 and 16; RESET passes the events that HALTED does not take. -/
theorem test_reset :
    answers (step (stopped .transportError [rx 0xAA#8, .reset]))
      (fun t => t.st == .awaitSync && t.haltCause == .none && t.script == [rx 0xAA#8]) = true ∧
    answers (step (reading 2 #v[0xAA#8, 0x0C#8, 0#8, 0#8, 0#8] [.reset]))
      (fun t => t.st == .awaitSync && t.cnt == 0) = true := by decide

/-- Log 12: an operation that `st` does not select stops by name. -/
theorem test_not_enabled :
    faults (exec .rxSync (complete goodWindow [])) .notEnabled = true ∧
    faults (exec (.rxData 0#8) State.reset) .notEnabled = true := by decide

/-- U7, log 13: there is no sixth byte. -/
theorem test_window_overrun :
    faults (exec (.rxData 0#8) (reading 5 goodWindow [])) .windowOverrun = true := by decide

/-! ## Witnesses: states and operands that meet a statement's hypotheses -/

theorem wit_UnitCallsDependOnOperandsAlone :
    isUnitCall (.split16 0xFFFF#16) = true ∧ isUnitCall .tagOk = true := by decide

/-- A word that decodes, the smallest and the largest; two Readings that differ. -/
theorem wit_EncodeIsTheOnlyPreimage :
    decodePacket #v[0xAA#8, 0#8, 0#8, 0#8, 0xAA#8] = .ok ⟨0#16, 0#8⟩ ∧
    decodePacket #v[0xAA#8, 0xFF#8, 0xFF#8, 0xFF#8, 0xA7#8] = .ok ⟨0xFFFF#16, 0xFF#8⟩ ∧
    (⟨0#16, 0#8⟩ : Reading) ≠ ⟨0#16, 1#8⟩ := by decide

/-- The first and the last byte, each to another value (R84 a, c). -/
theorem wit_SingleByteChangeIsDetected :
    0xAB#8 ≠ (encodeReading ⟨3300#16, 45#8⟩)[0] ∧ 0x0D#8 ≠ (encodeReading ⟨3300#16, 45#8⟩)[1] ∧
    0xC6#8 ≠ (encodeReading ⟨3300#16, 45#8⟩)[4] ∧
    decodePacket ((encodeReading ⟨3300#16, 45#8⟩).set 0 0xAB#8) = .err .syncMismatch ∧
    decodePacket ((encodeReading ⟨3300#16, 45#8⟩).set 1 0x0D#8) = .err .checksumMismatch ∧
    decodePacket ((encodeReading ⟨3300#16, 45#8⟩).set 4 0xC6#8) = .err .checksumMismatch := by decide

/-- Table T4 rows 1, 8 and 9, and, for the other branch, row 11. -/
theorem wit_CancellingChangesAreAccepted :
    decodePacket #v[0xAA#8, 0x0C#8, 0xE4#8, 0x2D#8, 0xC7#8] = .ok ⟨3300#16, 45#8⟩ ∧
    decodePacket #v[0xAA#8, 0x0D#8, 0xE3#8, 0x2D#8, 0xC7#8] = .ok ⟨3555#16, 45#8⟩ ∧
    decodePacket #v[0xAA#8, 0xE4#8, 0x0C#8, 0x2D#8, 0xC7#8] = .ok ⟨58380#16, 45#8⟩ ∧
    0x0D#8 + 0xE3#8 + 0x2D#8 - 0xC7#8 = 0x0C#8 + 0xE4#8 + 0x2D#8 - 0xC7#8 ∧
    0x0C#8 + 0xE4#8 + 0x2D#8 - 0xC6#8 ≠ 0x0C#8 + 0xE4#8 + 0x2D#8 - 0xC7#8 ∧
    decodePacket #v[0xAA#8, 0x0C#8, 0xE4#8, 0x2D#8, 0xC6#8] = .err .checksumMismatch := by decide

/-- Table T4 rows 3 and 15: the checksum is right and the sync byte is not. -/
theorem wit_SyncMismatchWinsOverChecksum :
    (#v[0xAB#8, 0x0C#8, 0xE4#8, 0x2D#8, 0xC8#8] : IngestPacket)[0] ≠ 0xAA#8 ∧
    (#v[0x55#8, 0x0C#8, 0xE4#8, 0x2D#8, 0x72#8] : IngestPacket)[0] ≠ 0xAA#8 := by decide

/-- The corners of the three regions (table T6). -/
theorem wit_ClassifierRegions :
    classify 0#16 61#8 = .critTemp ∧ classify 65535#16 255#8 = .critTemp ∧
    classify 3099#16 60#8 = .warnLowVolt ∧ classify 0#16 0#8 = .warnLowVolt ∧
    classify 3100#16 60#8 = .ok ∧ classify 65535#16 0#8 = .ok := by decide

theorem wit_PayloadIsTheValidatedBytes : decodePacket goodWindow = .ok ⟨3300#16, 45#8⟩ := by decide

/-- Both reading states. -/
theorem wit_IngestPacketOffersItsFiveBytes :
    (offered [.word .pkt [0xAA#8, 1#8, 2#8, 3#8, 4#8], .reset]).st = .awaitSync ∧
    (offered [.word .pkt [0xAA#8, 1#8, 2#8, 3#8, 4#8], .reset]).script =
      .word .pkt [0xAA#8, 1#8, 2#8, 3#8, 4#8] :: [.reset] ∧
    (reading 4 goodWindow [.word .pkt [0xAA#8, 1#8, 2#8, 3#8, 4#8]]).st = .accumulate ∧
    (reading 4 goodWindow [.word .pkt [0xAA#8, 1#8, 2#8, 3#8, 4#8]]).script =
      .word .pkt [0xAA#8, 1#8, 2#8, 3#8, 4#8] :: [] := by decide

/-- The first and the last reserved tag. -/
theorem wit_ReservedTagProducesNothing :
    3 ≤ (0x03#8).toNat ∧ 3 ≤ (0xFF#8).toNat ∧
    (offered [.word .build [1#8, 2#8, 3#8, 0xFF#8], .reset]).st = .awaitSync ∧
    (offered [.word .build [1#8, 2#8, 3#8, 0xFF#8], .reset]).script =
      .word .build [1#8, 2#8, 3#8, 0xFF#8] :: [.reset] ∧
    (reading 4 goodWindow [.word .build [1#8, 2#8, 3#8, 3#8]]).st = .accumulate := by decide

theorem wit_SyncByteOpensAWindow :
    (offered [.event 0x1AA#11, .reset]).st = .awaitSync ∧
    (offered [.event 0x1AA#11, .reset]).script = .event 0x1AA#11 :: [.reset] := by decide

/-- The neighbours of the sync byte. -/
theorem wit_OtherByteIsSkipped :
    (offered [rx 0xAB#8]).st = .awaitSync ∧ 0xAB#8 ≠ 0xAA#8 ∧ 0xA9#8 ≠ 0xAA#8 ∧
    (offered [rx 0xAB#8]).script = .event (0x100#11 ||| (0xAB#8).setWidth 11) :: [] := by decide

/-- The first byte after the sync byte, and the fifth of the window. -/
theorem wit_DataByteIsStoredAtCnt :
    (reading 1 goodWindow [rx 0xAA#8]).st = .accumulate ∧ (reading 1 goodWindow [rx 0xAA#8]).cnt.val < 5 ∧
    (reading 4 goodWindow [rx 0xAA#8]).st = .accumulate ∧ (reading 4 goodWindow [rx 0xAA#8]).cnt.val < 5 ∧
    (reading 4 goodWindow [rx 0xAA#8]).script = .event (0x100#11 ||| (0xAA#8).setWidth 11) :: [] := by decide

/-- With an exhausted list of answers, and with a ready one before a sink that then never is. -/
theorem wit_ValidWindowIsReportedAndEmitted :
    (toSink [] true []).st = .validate ∧ (toSink [] true []).sinkReady.headD (toSink [] true []).sinkAfter = true ∧
    (toSink [] true []).buf =
      #v[0xAA#8, 0x0C#8, 0xE4#8, 0x2D#8, 0xAA#8 + 0x0C#8 + 0xE4#8 + 0x2D#8] ∧
    (toSink [true] false []).sinkReady.headD (toSink [true] false []).sinkAfter = true := by decide

/-- Each of the two checks failing alone. -/
theorem wit_FailedWindowIsDropped :
    (complete badWindow []).st = .validate ∧
    badWindow[0] = 0xAA#8 ∧ badWindow[0] + badWindow[1] + badWindow[2] + badWindow[3] ≠ badWindow[4] ∧
    (complete (goodWindow.set 0 0xAB#8) []).st = .validate ∧ (complete (goodWindow.set 0 0xAB#8) []).buf[0] ≠ 0xAA#8 :=
  by decide

/-- A not-ready answer in the list, and one that stands for good; an event, and a packet on the wire, offered. -/
theorem wit_ValidWindowWaitsForTheSink :
    (toSink [false, true] true [.event 0x200#11]).st = .validate ∧
    decodePacket (toSink [false, true] true [.event 0x200#11]).buf = .ok ⟨3300#16, 45#8⟩ ∧
    [false, true].headD true = false ∧ ([] : List Bool).headD false = false ∧
    StreamFirst (toSink [false, true] true [.event 0x200#11]).script ∧
    StreamFirst (toSink [] false [.word .pkt goodWindow.toList]).script := by decide

/-- Nothing listed, and two refusals listed, before a sink that is never ready. -/
theorem wit_SinkNeverReadyStallsForEver :
    (toSink [false, false] false [rx 0xAA#8, .reset]).st = .validate ∧
    decodePacket (toSink [false, false] false [rx 0xAA#8, .reset]).buf = .ok ⟨3300#16, 45#8⟩ ∧
    (∀ b ∈ (toSink [false, false] false [rx 0xAA#8, .reset]).sinkReady, b = false) ∧
    (toSink [false, false] false [rx 0xAA#8, .reset]).sinkAfter = false ∧
    StreamFirst (toSink [false, false] false [rx 0xAA#8, .reset]).script ∧
    StreamFirst (toSink [] false []).script ∧
    answers (step (toSink [] false [rx 0xAA#8])) (fun t => t == toSink [] false [rx 0xAA#8]) = true := by decide

/-- Both reading states; the least and the greatest EOS word. -/
theorem wit_EndOfStreamHalts :
    (offered [.event 0x200#11]).st = .awaitSync ∧ (reading 4 goodWindow [.event 0x3FF#11]).st = .accumulate ∧
    0x200#11 &&& 0x600#11 = 0x200#11 ∧ 0x3FF#11 &&& 0x600#11 = 0x200#11 ∧
    (reading 4 goodWindow [.event 0x3FF#11]).script = .event 0x3FF#11 :: [] := by decide

/-- Both reading states; the least and the greatest ERR word. -/
theorem wit_TransportErrorHalts :
    (offered [.event 0x400#11]).st = .awaitSync ∧ (reading 4 goodWindow [.event 0x7FF#11]).st = .accumulate ∧
    0x400#11 &&& 0x400#11 = 0x400#11 ∧ 0x7FF#11 &&& 0x400#11 = 0x400#11 ∧
    (reading 4 goodWindow [.event 0x7FF#11]).script = .event 0x7FF#11 :: [] := by decide

theorem wit_NoEventHoldsTheState :
    (offered []).st = .awaitSync ∧ (offered []).script = [] ∧
    (reading 4 goodWindow []).st = .accumulate ∧ (reading 4 goodWindow []).script = [] := by decide

theorem wit_EventOfferedInValidateWaits : (complete goodWindow [rx 0xAA#8]).st = .validate := by decide

/-- Nothing offered, and an event and a packet on the wire. -/
theorem wit_HaltedTakesNoEvent :
    (stopped .streamClosed []).st = .halted ∧ (∀ x ∈ (stopped .streamClosed []).script, isStream x = true) ∧
    (∀ x ∈ (stopped .transportError [.event 0x400#11, .word .pkt goodWindow.toList]).script, isStream x = true) ∧
    faults (step (stopped .transportError [.event 0x400#11, .word .pkt goodWindow.toList])) .halted = true := by
  decide

theorem wit_ResetAppliesInEveryState :
    (stopped .streamClosed [.reset, rx 0xAA#8]).script = .reset :: [rx 0xAA#8] ∧
    (complete goodWindow [.reset]).script = .reset :: [] := by decide

/-- An event and a packet on the wire before the RESET, and nothing before it. -/
theorem wit_ResetPassesRefusedEvents :
    (stopped .streamClosed [rx 1#8, .word .pkt goodWindow.toList, .reset, rx 2#8]).st = .halted ∧
    (∀ x ∈ [rx 1#8, .word .pkt goodWindow.toList], isStream x = true) ∧
    (stopped .streamClosed [rx 1#8, .word .pkt goodWindow.toList, .reset, rx 2#8]).script =
      [rx 1#8, .word .pkt goodWindow.toList] ++ .reset :: [rx 2#8] ∧
    (stopped .streamClosed [.reset]).script = [] ++ .reset :: [] := by decide

/-- One state for each clause: an input taken, and none taken in each of the four states. -/
theorem wit_StepRunsTheDecodedOperation :
    nextInput (offered [rx 0xAA#8]) = some (rx 0xAA#8, []) ∧ reads .awaitSync (rx 0xAA#8) .rxSync = true ∧
    nextInput (complete goodWindow [.reset]) = some (.reset, []) ∧
    nextInput (offered []) = none ∧ nextInput (reading 1 goodWindow []) = none ∧
    nextInput (complete goodWindow [rx 0xAA#8]) = none ∧
    nextInput (stopped .streamClosed [rx 0xAA#8]) = none := by decide

/-- A boundary word of each clause. -/
theorem wit_EventWordSelectsByPriority :
    0x7FF#11 &&& 0x400#11 = 0x400#11 ∧ 0x3FF#11 &&& 0x600#11 = 0x200#11 ∧ 0x100#11 &&& 0x700#11 = 0x100#11 ∧
    0x1FF#11 &&& 0x700#11 = 0x100#11 ∧ 0x0FF#11 &&& 0x700#11 = 0x000#11 := by decide

theorem wit_SelectedOperationApplies :
    reads .accumulate (rx 0xAA#8) (.rxData 0xAA#8) = true ∧ decode .halted .reset = .ok .reset := ⟨by decide, rfl⟩

/-- The internal step, an event, and a word. -/
theorem wit_DecodeOfEncodeIsTheOperation :
    wellFormed .validate = true ∧ enabledIn .validate .validate = true ∧
    wellFormed (.rxSkip 0xAB#8) = true ∧ enabledIn .awaitSync (.rxSkip 0xAB#8) = true ∧
    wellFormed (.ingestPacket 0#8 0#8 0#8 0xAA#8) = true ∧
    enabledIn .halted (.ingestPacket 0#8 0#8 0#8 0xAA#8) = true := by decide

/-- A word that is written back, and a reserved tag in a BUILD word. -/
theorem wit_EncodeOfDecodeIsTheWord :
    decode .awaitSync (.word .split16 [0x0C#8, 0xE4#8]) = .ok (.split16 3300#16) ∧
    decode .awaitSync (.word .build [0#8, 0#8, 0#8, 3#8]) = .ok (.tagReserved 3#8) := ⟨rfl, rfl⟩

/-- A step from each reading state, from VALIDATE and from HALTED, of states that meet R18. -/
theorem wit_StepKeepsRegisterInvariant :
    RegisterInv (offered [rx 0xAA#8]) ∧ answers (step (offered [rx 0xAA#8])) registersAgree = true ∧
    RegisterInv (reading 4 goodWindow [rx 0xC7#8]) ∧
    answers (step (reading 4 goodWindow [rx 0xC7#8])) registersAgree = true ∧
    RegisterInv (complete badWindow []) ∧ answers (step (complete badWindow [])) registersAgree = true ∧
    RegisterInv (stopped .streamClosed [.reset]) ∧
    answers (step (stopped .streamClosed [.reset])) registersAgree = true := by decide

theorem wit_StepKeepsFramesMatchingReadings :
    FramesMatchReadings (complete goodWindow []).trace ∧
    ∃ t : State, step (complete goodWindow []) = .next t ∧ (framesOf t.trace).length = 1 := ⟨rfl, _, rfl, rfl⟩

theorem wit_StepKeepsFramesLawful :
    (∀ f ∈ framesOf (complete goodWindow []).trace, FrameLawful f) ∧
    ∃ t : State, step (complete goodWindow []) = .next t ∧ (framesOf t.trace).length = 1 :=
  ⟨(fun _ h => by cases h), _, rfl, rfl⟩

/-- A window with a packet still offered: one frame, and the budget spent exactly. -/
theorem wit_EveryFrameCostsFiveBytes :
    RegisterInv (complete goodWindow [.word .pkt goodWindow.toList]) ∧
    byteBudget (complete goodWindow [.word .pkt goodWindow.toList]) = 10 ∧
    answers (step (complete goodWindow [.word .pkt goodWindow.toList])) (fun t => byteBudget t == 10) = true := by
  decide

/-- A step of each shape: nothing added, one event, a READING with its frame. -/
theorem wit_OutputsAreOnlyAppended :
    answers (step (offered [rx 1#8])) (fun t => t.trace == []) = true ∧
    answers (step (complete badWindow [])) (fun t => t.trace.length == 1) = true ∧
    answers (step (complete goodWindow [])) (fun t => t.trace.length == 2) = true := by decide

theorem wit_OnlyTheHaltedBlockFaults :
    RegisterInv (stopped .transportError []) ∧ faults (step (stopped .transportError [])) .halted = true := by decide

/-- A reading state at both ends of the window, and VALIDATE with a sink that is not ready and one that is. -/
theorem wit_ReadingBlockAlwaysSteps :
    RegisterInv (offered [.event 0x1AA#11]) ∧ (offered [.event 0x1AA#11]).st = .awaitSync ∧
    RegisterInv (reading 4 goodWindow [.event 0x7FF#11]) ∧ (reading 4 goodWindow [.event 0x7FF#11]).st = .accumulate ∧
    RegisterInv (toSink [] false [.word .pkt goodWindow.toList]) ∧
    StreamFirst (toSink [] false [.word .pkt goodWindow.toList]).script ∧
    RegisterInv (toSink [] true []) ∧ StreamFirst (toSink [] true []).script := by decide

/-- A RESET, and the call of a unit. -/
theorem wit_OnlyResetLeavesHalted :
    (stopped .streamClosed [.reset]).st = .halted ∧
    answers (step (stopped .streamClosed [.reset])) (fun t => t.st == .awaitSync) = true ∧
    answers (step (stopped .streamClosed [.word .split16 [1#8, 2#8]])) (fun t => t.st == .halted) = true := by decide

/-- An ERR, and a packet on the wire. -/
theorem wit_ValidateComesBeforeTheNextEvent :
    (complete goodWindow [.event 0x400#11]).st = .validate ∧ isStream (.event 0x400#11) = true ∧
    (complete goodWindow [.event 0x400#11]).script = .event 0x400#11 :: [] ∧
    isStream (.word .pkt goodWindow.toList) = true ∧
    (complete badWindow [.word .pkt goodWindow.toList, .reset]).script =
      .word .pkt goodWindow.toList :: [.reset] := by decide

/-- No idle word, and three. -/
theorem wit_WaitingNeverTimesOut :
    (reading 2 goodWindow [.event 0x0FF#11, .event 0x0FF#11, .event 0x0FF#11, rx 1#8]).st = .accumulate ∧
    0x0FF#11 &&& 0x700#11 = 0x000#11 ∧
    (reading 2 goodWindow [.event 0x0FF#11, .event 0x0FF#11, .event 0x0FF#11, rx 1#8]).script =
      List.replicate 3 (.event 0x0FF#11) ++ [rx 1#8] ∧
    (offered [rx 1#8]).script = List.replicate 0 (.event 0#11) ++ [rx 1#8] := by decide

/-- The same window beside different surroundings. -/
theorem wit_NothingCarriesOverBetweenWindows :
    (complete goodWindow []).st = .validate ∧
    (toSink [true] false [rx 1#8]).st = .validate ∧ (complete goodWindow []).buf = (toSink [true] false [rx 1#8]).buf ∧
    (complete goodWindow []).sinkReady.headD (complete goodWindow []).sinkAfter = true ∧
    (toSink [true] false [rx 1#8]).sinkReady.headD (toSink [true] false [rx 1#8]).sinkAfter = true := by decide

/-- Two states that differ in all their dead bytes, and step. -/
theorem wit_DeadBufferBytesAreUnobservable :
    RegisterInv (reading 1 #v[0xAA#8, 1#8, 2#8, 3#8, 4#8] [rx 9#8]) ∧
    SameButDeadBytes (reading 1 #v[0xAA#8, 1#8, 2#8, 3#8, 4#8] [rx 9#8])
      (reading 1 #v[0xAA#8, 5#8, 6#8, 7#8, 8#8] [rx 9#8]) :=
  ⟨by decide, rfl, fun i _ hc => by
    have hi : i < 1 := hc
    obtain rfl : i = 0 := by omega
    rfl⟩

/-- One event from the hunting block, and one that completes a window. -/
theorem wit_FusedStepAgreesWithTheMachine :
    RegisterInv (offered [.event 0x1AA#11]) ∧ SinkAlwaysReady (offered [.event 0x1AA#11]) ∧
    (offered [.event 0x1AA#11]).script = .event 0x1AA#11 :: [] ∧ StreamFirst [] ∧
    StreamFirst [.word .pkt goodWindow.toList] ∧
    eventOf 0x1AA#11 = some (.byte 0xAA#8) ∧ restingOf (offered [.event 0x1AA#11]) = some .awaitSync ∧
    RegisterInv (reading 4 goodWindow [.event 0x1C7#11]) ∧ eventOf 0x1C7#11 = some (.byte 0xC7#8) ∧
    restingOf (reading 4 goodWindow [.event 0x1C7#11]) =
      some (.accumulate [0xAA#8, 0x0C#8, 0xE4#8, 0x2D#8]) := by decide

/-- A run from reset over no event and over an end of stream with a byte behind it, and one from HALTED. -/
theorem wit_MachineRunIsTheGatewayFunction :
    RegisterInv (offered []) ∧ SinkAlwaysReady (offered []) ∧ restingOf (offered []) = some .awaitSync ∧
    (offered []).script = eventInputs [] ∧
    (offered [rx 0xAA#8, .event 0x200#11, rx 1#8]).script = eventInputs [.byte 0xAA#8, .eos, .byte 1#8] ∧
    afterHalt [.byte 0xAA#8, .eos, .byte 1#8] = [.byte 1#8] ∧
    (stopped .streamClosed [rx 1#8]).script = eventInputs [.byte 1#8] ∧
    RegisterInv (stopped .streamClosed [rx 1#8]) ∧
    restingOf (stopped .streamClosed [rx 1#8]) = some (.halted .streamClosed) := by decide

/-- A packet cut after its third byte, whose first read leaves a window of three open, and a first read with an end
of stream in it. -/
theorem wit_ChunkingDoesNotMatter :
    RegisterInv (offered [rx 0xAA#8, rx 0x0C#8, rx 0xE4#8]) ∧
    SinkAlwaysReady (offered [rx 0xAA#8, rx 0x0C#8, rx 0xE4#8]) ∧
    (offered [rx 0xAA#8, rx 0x0C#8, rx 0xE4#8]).st ≠ .validate ∧
    (offered [rx 0xAA#8, rx 0x0C#8, rx 0xE4#8]).script = eventInputs [.byte 0xAA#8, .byte 0x0C#8, .byte 0xE4#8] ∧
    answers (runSteps 3 (offered [rx 0xAA#8, rx 0x0C#8, rx 0xE4#8])) (fun t => t.cnt == 3 && t.script == []) = true ∧
    (offered [.event 0x200#11, rx 1#8]).script = eventInputs [.eos, .byte 1#8] := by decide

/-- The source's own instance (S6): one garbage byte, then the packet of {3300, 45}. -/
theorem wit_GarbageThenPacketYieldsOneFrame :
    (∀ b ∈ [0x01#8], b ≠ 0xAA#8) ∧
    (offered [rx 0x01#8, rx 0xAA#8, rx 0x0C#8, rx 0xE4#8, rx 0x2D#8, rx 0xC7#8]).st = .awaitSync ∧
    SinkAlwaysReady (offered [rx 0x01#8, rx 0xAA#8, rx 0x0C#8, rx 0xE4#8, rx 0x2D#8, rx 0xC7#8]) ∧
    StreamFirst [] ∧
    (offered [rx 0x01#8, rx 0xAA#8, rx 0x0C#8, rx 0xE4#8, rx 0x2D#8, rx 0xC7#8]).script =
      eventInputs ([0x01#8].map .byte) ++ (eventInputs ((encodeReading ⟨3300#16, 45#8⟩).toList.map .byte) ++ []) := by
  decide

end Sys2Proof.Tests
end

section
/-! The register table of R18: what it says in each state, which operations keep it, and that every step does. -/

namespace Sys2Proof.Machine

/-! ## The rows of the table -/

theorem registerInv_iff_of_awaitSync {s : State} (hst : s.st = .awaitSync) :
    RegisterInv s ↔ s.cnt.val = 0 ∧ s.haltCause = .none := by
  simp [RegisterInv, registersAgree, hst]

theorem registerInv_iff_of_accumulate {s : State} (hst : s.st = .accumulate) :
    RegisterInv s ↔
      1 ≤ s.cnt.val ∧ s.cnt.val < Config.pktLen ∧ s.buf[0] = Config.sync ∧ s.haltCause = .none := by
  simp [RegisterInv, registersAgree, hst, and_assoc]

theorem registerInv_iff_of_validate {s : State} (hst : s.st = .validate) :
    RegisterInv s ↔ s.cnt.val = Config.pktLen ∧ s.buf[0] = Config.sync ∧ s.haltCause = .none := by
  simp [RegisterInv, registersAgree, hst, and_assoc]

theorem registerInv_iff_of_halted {s : State} (hst : s.st = .halted) :
    RegisterInv s ↔ s.cnt.val = 0 ∧ s.haltCause ≠ .none := by
  simp [RegisterInv, registersAgree, hst]

/-- The cause is set in HALTED only (R17, R18). -/
theorem haltCause_eq_none_of_registerInv {s : State} (hs : RegisterInv s) (hst : s.st ≠ .halted) :
    s.haltCause = .none := by
  cases h : s.st with
  | awaitSync =>
    obtain ⟨-, hc⟩ := (registerInv_iff_of_awaitSync h).1 hs
    exact hc
  | accumulate =>
    obtain ⟨-, -, -, hc⟩ := (registerInv_iff_of_accumulate h).1 hs
    exact hc
  | validate =>
    obtain ⟨-, -, hc⟩ := (registerInv_iff_of_validate h).1 hs
    exact hc
  | halted => exact absurd h hst

/-! ## Operations that leave the four registers alone -/

/-- The table speaks of `st`, `cnt`, `buf` and `halt_cause` alone. -/
theorem registerInv_congr {s t : State} (hst : t.st = s.st) (hcnt : t.cnt = s.cnt) (hbuf : t.buf = s.buf)
    (hcause : t.haltCause = s.haltCause) : RegisterInv t ↔ RegisterInv s := by
  simp only [RegisterInv, registersAgree, hst, hcnt, hbuf, hcause]

@[simp] theorem registerInv_report (e : Event) (s : State) : RegisterInv (report e s) ↔ RegisterInv s :=
  registerInv_congr rfl rfl rfl rfl

@[simp] theorem registerInv_answer (r : UnitResult) (s : State) : RegisterInv (answer r s) ↔ RegisterInv s :=
  registerInv_congr rfl rfl rfl rfl

@[simp] theorem registerInv_offerChunk (p : IngestPacket) (s : State) :
    RegisterInv (offerChunk p s) ↔ RegisterInv s :=
  registerInv_congr rfl rfl rfl rfl

@[simp] theorem registerInv_with_script (s : State) (l : List Input) :
    RegisterInv { s with script := l } ↔ RegisterInv s :=
  registerInv_congr rfl rfl rfl rfl

@[simp] theorem registerInv_with_sinkReady (s : State) (l : List Bool) :
    RegisterInv { s with sinkReady := l } ↔ RegisterInv s :=
  registerInv_congr rfl rfl rfl rfl

/-! ## Operations that move the block to another row -/

/-- A sync byte opens a window of one byte (R90). -/
theorem registerInv_openWindow {s : State} (hc : s.haltCause = .none) :
    RegisterInv { s with buf := s.buf.set 0 Config.sync, cnt := 1, st := .accumulate } :=
  (registerInv_iff_of_accumulate rfl).2 ⟨le_rfl, show 1 < Config.pktLen by decide, Vector.getElem_set_self _, hc⟩

/-- A byte stored behind another one leaves `buf[0]` as it is. -/
theorem storeByte_buf_zero (b : Byte) (s : State) (h : s.cnt.val < Config.pktLen) (h1 : 1 ≤ s.cnt.val) :
    (storeByte b s h).buf[0] = s.buf[0] := by
  rw [storeByte_buf]
  exact Vector.getElem_set_ne _ _ (by omega)

/-- A byte that leaves the window short of a packet (R92). -/
theorem registerInv_storeByte {s : State} (hs : RegisterInv s) (hst : s.st = .accumulate) (b : Byte)
    (h : s.cnt.val < Config.pktLen) (hshort : s.cnt.val + 1 < Config.pktLen) :
    RegisterInv (storeByte b s h) := by
  obtain ⟨h1, -, hsync, hc⟩ := (registerInv_iff_of_accumulate hst).1 hs
  exact (registerInv_iff_of_accumulate ((storeByte_st b s h).trans hst)).2
    ⟨Nat.le_add_left 1 _, hshort, (storeByte_buf_zero b s h h1).trans hsync, hc⟩

/-- The byte that completes the window (R93). -/
theorem registerInv_goTo_validate_storeByte {s : State} (hs : RegisterInv s) (hst : s.st = .accumulate) (b : Byte)
    (h : s.cnt.val < Config.pktLen) (hfull : s.cnt.val + 1 = Config.pktLen) :
    RegisterInv (goTo .validate (storeByte b s h)) := by
  obtain ⟨h1, -, hsync, hc⟩ := (registerInv_iff_of_accumulate hst).1 hs
  exact (registerInv_iff_of_validate rfl).2 ⟨hfull, (storeByte_buf_zero b s h h1).trans hsync, hc⟩

/-- A window given up whole (R96, R102). -/
theorem registerInv_dropWindow {s : State} (hc : s.haltCause = .none) : RegisterInv (dropWindow s) :=
  (registerInv_iff_of_awaitSync rfl).2 ⟨rfl, hc⟩

/-- A delivery returns with an empty window, or it waits for the sink and moves no register (R95, R135). -/
theorem registerInv_deliver {s : State} (hs : RegisterInv s) (hc : s.haltCause = .none) (r : Reading) :
    RegisterInv (deliver r s) := by
  rcases deliver_cases r s with hwait | hsent
  · rw [hwait]
    exact (registerInv_with_sinkReady s _).2 hs
  · rw [hsent]
    exact (registerInv_iff_of_awaitSync rfl).2 ⟨rfl, hc⟩

/-- A fatal failure enters HALTED with its cause (R97, R98). -/
theorem registerInv_raiseFatal {c : HaltCause} (hc : c ≠ .none) (s : State) : RegisterInv (raiseFatal c s) :=
  (registerInv_iff_of_halted rfl).2 ⟨rfl, hc⟩

/-- RESET meets the table from any state, whether that state met it or not (R103). -/
theorem registerInv_resetBlock (s : State) : RegisterInv (resetBlock s) :=
  (registerInv_iff_of_awaitSync rfl).2 ⟨rfl, rfl⟩

/-! ## Every operation and every step -/

theorem exec_keeps_registerInv {i : Instr} {s t : State} (hs : RegisterInv s) (h : exec i s = .next t) :
    RegisterInv t := by
  have hcause : s.st ≠ .halted → s.haltCause = .none := haltCause_eq_none_of_registerInv hs
  rcases exec_eq_next h with ⟨r, rfl⟩ | ⟨a, b, c, d, -, rfl⟩ | ⟨-, hst, rfl⟩ | ⟨b, -, -, -, rfl⟩ |
    ⟨b, hlt, -, hst, hfull, rfl⟩ | ⟨b, hlt, -, hst, hshort, rfl⟩ | ⟨r, -, hst, -, rfl⟩ | ⟨e, -, hst, -, rfl⟩ |
    ⟨-, -, rfl⟩ | ⟨-, -, rfl⟩ | ⟨-, rfl⟩ | ⟨w, -, -, rfl⟩ | ⟨-, rfl⟩
  · exact (registerInv_answer r s).2 hs
  · exact (registerInv_offerChunk _ s).2 hs
  · exact (registerInv_report _ _).2 (registerInv_openWindow (hcause (by simp [hst])))
  · exact (registerInv_report _ s).2 hs
  · exact (registerInv_report _ _).2 (registerInv_goTo_validate_storeByte hs hst b hlt hfull)
  · exact (registerInv_report _ _).2 (registerInv_storeByte hs hst b hlt hshort)
  · exact registerInv_deliver hs (hcause (by simp [hst])) r
  · exact registerInv_dropWindow (hcause (by simp [hst]))
  · exact registerInv_raiseFatal (by decide) s
  · exact registerInv_raiseFatal (by decide) s
  · exact hs
  · exact hs
  · exact registerInv_resetBlock s

theorem step_keeps_registerInv {s t : State} (hs : RegisterInv s) (h : step s = .next t) : RegisterInv t := by
  obtain ⟨i, l, hexec, -⟩ := step_next_cases h
  exact exec_keeps_registerInv ((registerInv_with_script s l).2 hs) hexec

/-- Settles O43: the step is one operation run beside a shorter script, and every operation keeps the table. -/
theorem stepKeepsRegisterInvariant : Obligations.StepKeepsRegisterInvariant :=
  fun _ _ hs h => step_keeps_registerInv hs h

/-- Settles O2: the row of AWAIT_SYNC holds at reset. -/
theorem resetStateMeetsInvariant : Obligations.ResetStateMeetsInvariant :=
  (registerInv_iff_of_awaitSync rfl).2 ⟨rfl, rfl⟩

end Sys2Proof.Machine
end

section
/-! What the decoder reads on the ports that carry a status tag where the tag is reserved (R62), and the step on an
input the block takes. -/

namespace Sys2Proof

open Machine

/-! ## The step on an input that is taken -/

/-- A step that takes an input runs the operation it selects, the input gone from the script. -/
theorem step_of_nextInput_some {s : State} {x : Input} {rest : List Input} {i : Instr}
    (hx : nextInput s = some (x, rest)) (hi : decode s.st x = .ok i) :
    step s = exec i { s with script := rest } := by
  have hfetch : fetch s = .ok (i, { s with script := rest }) := by simp [fetch, hx, hi]
  exact step_of_fetch hfetch

/-! ## Reserved tags -/

/-- The tag port, beyond the three codes of R54. -/
theorem decode_tag_of_reserved (st : St) {tag : Byte} (htag : statusOf tag = none) :
    decode st (.word .tag [tag]) = .ok (.tagReserved tag) := by
  simp [decode, decodeWord, decodeTag, htag]

/-- The BUILD port refuses on the tag alone, whatever the three bytes of the Reading are (R57, R62). -/
theorem decode_build_of_reserved (st : St) (h l t : Byte) {tag : Byte} (htag : statusOf tag = none) :
    decode st (.word .build [h, l, t, tag]) = .ok (.tagReserved tag) := by
  simp [decode, decodeWord, decodeBuild, htag]

@[simp] theorem exec_tagReserved (tag : Byte) (s : State) : exec (.tagReserved tag) s = .next s := rfl

/-- Settles O22: the tags from 3 up are the ones with no status code, so both ports read TAG_RESERVED, and a reading
block takes the BUILD word and runs that. -/
theorem reservedTagProducesNothing : Obligations.ReservedTagProducesNothing := by
  intro tag h l t s htag
  have hnone : statusOf tag = none := (statusOf_eq_none_iff tag).2 htag
  have hbuild := decode_build_of_reserved s.st h l t hnone
  refine ⟨decode_tag_of_reserved s.st hnone, hbuild, exec_tagReserved tag s, fun rest hst hscript => ?_⟩
  calc step s
      = exec (.tagReserved tag) { s with script := rest } :=
        step_of_nextInput_some (nextInput_of_reading hst hscript) hbuild
    _ = .next { s with script := rest } := exec_tagReserved tag _

end Sys2Proof
end

section
/-! The packet encoder: what CHECKSUM, SPLIT16 and ENCODE record in any state (R70 to R72), and that DECODE inverts
ENCODE (R74). -/

namespace Sys2Proof.Machine

/-! ## The codec's calls answer from their operands -/

@[simp] theorem exec_checksum (b0 b1 b2 b3 : Byte) (s : State) :
    exec (.checksum b0 b1 b2 b3) s = .next (answer (.checksum (checksum b0 b1 b2 b3)) s) := rfl

@[simp] theorem exec_split16 (v : Word16) (s : State) :
    exec (.split16 v) s = .next (answer (.split16 (split16 v).1 (split16 v).2) s) := rfl

@[simp] theorem exec_encode (v : Word16) (t : Byte) (s : State) :
    exec (.encode v t) s = .next (answer (.encoded (encodeReading ⟨v, t⟩)) s) := rfl

/-! ## The bytes they compute -/

/-- The high byte is `v / 256`, which fits in eight bits. -/
theorem split16_fst_eq_ofNat (v : Word16) : (split16 v).1 = BitVec.ofNat 8 (v.toNat / 256) := by
  rw [← split16_fst_toNat, BitVec.ofNat_toNat, BitVec.setWidth_eq]

/-- The low byte is `v mod 256`. -/
theorem split16_snd_eq_ofNat (v : Word16) : (split16 v).2 = BitVec.ofNat 8 (v.toNat % 256) := by
  rw [← split16_snd_toNat, BitVec.ofNat_toNat, BitVec.setWidth_eq]

/-- The packet of a Reading, byte by byte (R72). -/
theorem encodeReading_eq (r : Reading) :
    encodeReading r = #v[Config.sync, (split16 r.voltageMv).1, (split16 r.voltageMv).2, r.tempC,
      checksum Config.sync (split16 r.voltageMv).1 (split16 r.voltageMv).2 r.tempC] := rfl

/-- The encoder writes the sync byte and the checksum DECODE looks for, and the two voltage bytes assemble to the
voltage they were split from (R74). -/
@[simp] theorem decodePacket_encodeReading (r : Reading) : decodePacket (encodeReading r) = .ok r := by
  rw [decodePacket_eq_ok_iff]
  have hsync : (encodeReading r)[0] = Config.sync := rfl
  have hsum : checksum (encodeReading r)[0] (encodeReading r)[1] (encodeReading r)[2] (encodeReading r)[3] =
      (encodeReading r)[4] := rfl
  have hvolt : assemble16 (encodeReading r)[1] (encodeReading r)[2] = r.voltageMv := assemble16_split16 r.voltageMv
  have htemp : (encodeReading r)[3] = r.tempC := rfl
  exact ⟨hsync, hsum, by rw [hvolt, htemp]⟩

/-! ## The statements -/

/-- Settles O3: the exact sum cut to eight bits is the wrapping sum. -/
theorem checksumIsSumModulo256 : Obligations.ChecksumIsSumModulo256 := by
  intro b0 b1 b2 b3 s
  rw [exec_checksum, ← checksum_eq_add]
  exact ⟨rfl, checksum_toNat b0 b1 b2 b3⟩

/-- Settles O4: the two byte fields of the word are its quotient and its remainder by 256. -/
theorem split16GivesHighThenLow : Obligations.Split16GivesHighThenLow := by
  intro v s
  rw [exec_split16, split16_fst_eq_ofNat, split16_snd_eq_ofNat]
  rfl

/-- Settles O5: the packet of a Reading, its checksum written as the wrapping sum of the other four bytes. -/
theorem encodeBuildsThePacket : Obligations.EncodeBuildsThePacket := by
  intro v t s
  rw [exec_encode, encodeReading_eq, checksum_eq_add]
  rfl

/-- Settles O11: the round trip of every Reading. -/
theorem decodeInvertsEncode : Obligations.DecodeInvertsEncode :=
  fun v t => decodePacket_encodeReading ⟨v, t⟩

end Sys2Proof.Machine
end

section
/-! The packet decoder: which of its three results DECODE gives for a word (R80), and that the sync check goes before
the checksum (R81). -/

namespace Sys2Proof.Machine

@[simp] theorem exec_decode (p0 p1 p2 p3 p4 : Byte) (s : State) :
    exec (.decode p0 p1 p2 p3 p4) s = .next (answer (.decoded (decodePacket #v[p0, p1, p2, p3, p4])) s) := rfl

/-! ## The decoder's two comparisons and its assembly, as numbers -/

/-- The checksum test compares numbers below 256 (R70). -/
theorem checksum_eq_iff (b0 b1 b2 b3 c : Byte) :
    checksum b0 b1 b2 b3 = c ↔ (b0.toNat + b1.toNat + b2.toNat + b3.toNat) % 256 = c.toNat := by
  rw [← checksum_toNat, BitVec.toNat_inj]

/-- The high byte counts 256 each, the low byte one (R55). -/
theorem assemble16_eq_ofNat (h l : Byte) : assemble16 h l = BitVec.ofNat 16 (h.toNat * 256 + l.toNat) := by
  rw [← assemble16_toNat, BitVec.ofNat_toNat, BitVec.setWidth_eq]

/-! ## The three results of a word (R80)

The accepting one is `decodePacket_eq_ok_iff`. -/

/-- The sync check is the first, so nothing is asked of the checksum (R81). -/
theorem decodePacket_of_sync_ne {p : IngestPacket} (hsync : p[0] ≠ Config.sync) :
    decodePacket p = .err .syncMismatch :=
  if_pos hsync

theorem decodePacket_of_checksum_ne {p : IngestPacket} (hsync : p[0] = Config.sync)
    (hsum : checksum p[0] p[1] p[2] p[3] ≠ p[4]) : decodePacket p = .err .checksumMismatch :=
  (if_neg (not_not_intro hsync)).trans (if_pos hsum)

/-- DECODE of five bytes, its checksum and its voltage written over the numbers the bytes stand for. -/
theorem decodePacket_bytes (p0 p1 p2 p3 p4 : Byte) :
    decodePacket #v[p0, p1, p2, p3, p4] =
      if p0 ≠ Config.sync then .err .syncMismatch
      else if (p0.toNat + p1.toNat + p2.toNat + p3.toNat) % 256 ≠ p4.toNat then .err .checksumMismatch
      else .ok ⟨BitVec.ofNat 16 (p1.toNat * 256 + p2.toNat), p3⟩ := by
  rw [← assemble16_eq_ofNat]
  split_ifs with hsync hsum
  · exact decodePacket_of_sync_ne hsync
  · exact decodePacket_of_checksum_ne (not_not.1 hsync) (mt (checksum_eq_iff ..).1 hsum)
  · exact (decodePacket_eq_ok_iff _ _).2 ⟨not_not.1 hsync, (checksum_eq_iff ..).2 (not_not.1 hsum), rfl⟩

/-! ## The statements -/

/-- Settles O6: the call records what the codec gives for its five bytes. -/
theorem decodeChecksSyncThenChecksum : Obligations.DecodeChecksSyncThenChecksum := by
  intro p0 p1 p2 p3 p4 s
  rw [exec_decode, decodePacket_bytes]
  rfl

/-- Settles O15: the sync check answers before the checksum is looked at. -/
theorem syncMismatchWinsOverChecksum : Obligations.SyncMismatchWinsOverChecksum :=
  fun _ hsync => decodePacket_of_sync_ne hsync

end Sys2Proof.Machine
end

section
/-! The stream resynchroniser: what its byte events do in the state that reads them (R90 to R92), which operation a
byte's event word selects there (R59), and what an event meets in the two states that take none (R99). -/

namespace Sys2Proof.Machine

/-! ## The operations in the states that select them -/

/-- RX_SYNC opens a window on the sync byte (R90). -/
theorem exec_rxSync_of_awaitSync {s : State} (hst : s.st = .awaitSync) :
    exec .rxSync s = .next
      { s with buf := s.buf.set 0 Config.sync, cnt := 1, st := .accumulate, evOut := .none } := by
  simp only [exec, execRxSync, hst]
  rfl

/-- RX_SKIP reports that nothing happened, and does nothing else (R91). -/
theorem exec_rxSkip_of_awaitSync {b : Byte} {s : State} (hst : s.st = .awaitSync) (hb : b ≠ Config.sync) :
    exec (.rxSkip b) s = .next (report .none s) := by
  simp only [exec, execRxSkip, hst, if_neg hb]

/-- RX_DATA on the byte that completes the window (R92). -/
theorem exec_rxData_of_last (b : Byte) {s : State} (h : s.cnt.val < Config.pktLen) (hst : s.st = .accumulate)
    (hfull : s.cnt.val + 1 = Config.pktLen) :
    exec (.rxData b) s = .next (report .none (goTo .validate (storeByte b s h))) := by
  simp only [exec, execRxData, hst, dif_pos h, if_pos hfull]

/-- RX_DATA on a byte that leaves the window open (R92). -/
theorem exec_rxData_of_not_last (b : Byte) {s : State} (h : s.cnt.val < Config.pktLen) (hst : s.st = .accumulate)
    (hopen : s.cnt.val + 1 ≠ Config.pktLen) :
    exec (.rxData b) s = .next (report .none (storeByte b s h)) := by
  simp only [exec, execRxData, hst, dif_pos h, if_neg hopen]

/-- Below the end of the window the counter's own addition does not wrap. -/
theorem cnt_add_one {s : State} (h : s.cnt.val < Config.pktLen) : s.cnt + 1 = ⟨s.cnt.val + 1, Nat.succ_lt_succ h⟩ :=
  Fin.ext (Fin.val_add_one_of_lt' (Nat.succ_lt_succ h))

/-- Both cases of RX_DATA in one state: the fill of the window decides `st` alone (R92). -/
theorem exec_rxData_of_accumulate (b : Byte) {s : State} (h : s.cnt.val < Config.pktLen)
    (hst : s.st = .accumulate) :
    exec (.rxData b) s = .next
      { s with
        buf := s.buf.set s.cnt.val b h
        cnt := s.cnt + 1
        st := if s.cnt.val + 1 = Config.pktLen then .validate else .accumulate
        evOut := .none } := by
  rw [cnt_add_one h]
  by_cases hfull : s.cnt.val + 1 = Config.pktLen
  · rw [exec_rxData_of_last b h hst hfull, if_pos hfull]
    rfl
  · rw [exec_rxData_of_not_last b h hst hfull, if_neg hfull, ← hst]
    rfl

/-- RX_REFUSED in VALIDATE leaves the event waiting (R99). -/
theorem exec_rxRefused_of_validate (w : EventWord) {s : State} (hst : s.st = .validate) :
    exec (.rxRefused w) s = .next s := by
  simp only [exec, execRxRefused, hst]

/-- RX_REFUSED in HALTED has no successor (R99, U5). -/
theorem exec_rxRefused_of_halted (w : EventWord) {s : State} (hst : s.st = .halted) :
    exec (.rxRefused w) s = .fault .halted := by
  simp only [exec, execRxRefused, hst]

/-! ## The operation a byte's event word selects (R59) -/

theorem decode_syncByte_of_awaitSync {s : State} (hst : s.st = .awaitSync) :
    decode s.st (.event (eventWord (.byte Config.sync))) = .ok .rxSync := by
  simp [decode, decodeEvent, hst]

theorem decode_otherByte_of_awaitSync {b : Byte} {s : State} (hst : s.st = .awaitSync) (hb : b ≠ Config.sync) :
    decode s.st (.event (eventWord (.byte b))) = .ok (.rxSkip b) := by
  simp [decode, decodeEvent, hst, hb]

theorem decode_byte_of_accumulate (b : Byte) {s : State} (hst : s.st = .accumulate) :
    decode s.st (.event (eventWord (.byte b))) = .ok (.rxData b) := by
  simp [decode, decodeEvent, hst]

/-! ## The step on what stands first -/

/-- A reading block runs the operation that the head of the script selects (R31, log 1). -/
theorem step_of_reading {s : State} {x : Input} {rest : List Input} {i : Instr}
    (hst : s.st = .awaitSync ∨ s.st = .accumulate) (hscript : s.script = x :: rest) (hi : decode s.st x = .ok i) :
    step s = exec i { s with script := rest } :=
  step_of_nextInput_some (nextInput_of_reading hst hscript) hi

/-- A halted block with nothing but the stream offered is at RX_REFUSED, whatever word stands first (R99, log 3). -/
theorem step_of_halted {s : State} (hst : s.st = .halted) (hstream : ∀ x ∈ s.script, isStream x = true) :
    step s = exec (.rxRefused (offeredWord s.script)) s := by
  have hidle : idleInstr s = .rxRefused (offeredWord s.script) := by simp [idleInstr, hst]
  rw [step_of_nextInput_none (nextInput_of_halted hst hstream), hidle]

/-! ## The statements -/

/-- Settles O34: nothing is taken, and the operation run in its place has no successor. -/
theorem haltedTakesNoEvent : Obligations.HaltedTakesNoEvent := by
  intro s hst hstream
  refine ⟨fun w => exec_rxRefused_of_halted w hst, ?_⟩
  calc step s
      = exec (.rxRefused (offeredWord s.script)) s := step_of_halted hst hstream
    _ = .fault .halted := exec_rxRefused_of_halted _ hst

/-- Settles O23: the event word 0x1AA is the sync byte's, and selects RX_SYNC. -/
theorem syncByteOpensAWindow : Obligations.SyncByteOpensAWindow := by
  intro s hst
  refine ⟨exec_rxSync_of_awaitSync hst, fun rest hscript => ?_⟩
  have hword : (0x1AA#11 : EventWord) = eventWord (.byte Config.sync) := by decide
  rw [hword] at hscript
  rw [step_of_reading (.inl hst) hscript (decode_syncByte_of_awaitSync hst)]
  exact exec_rxSync_of_awaitSync hst

/-- Settles O24: every other byte's event word selects RX_SKIP. -/
theorem otherByteIsSkipped : Obligations.OtherByteIsSkipped := by
  intro b s hst hb
  refine ⟨exec_rxSkip_of_awaitSync hst hb, fun rest hscript => ?_⟩
  rw [step_of_reading (.inl hst) hscript (decode_otherByte_of_awaitSync hst hb)]
  exact exec_rxSkip_of_awaitSync hst hb

/-- Settles O25: in ACCUMULATE every byte's event word selects RX_DATA, the sync byte's too. -/
theorem dataByteIsStoredAtCnt : Obligations.DataByteIsStoredAtCnt := by
  intro b s h hst
  refine ⟨exec_rxData_of_accumulate b h hst, fun rest hscript => ?_⟩
  rw [step_of_reading (.inr hst) hscript (decode_byte_of_accumulate b hst)]
  exact exec_rxData_of_accumulate b (s := { s with script := rest }) h hst

/-- Settles O33: the operation's own case for VALIDATE. -/
theorem eventOfferedInValidateWaits : Obligations.EventOfferedInValidateWaits :=
  fun w _ hst => exec_rxRefused_of_validate w hst

end Sys2Proof.Machine
end

section
/-! The safety classifier: its two comparisons as comparisons of numbers (R112), what CLASSIFY records in any state
(R110), and the region of each status code (R113). -/

namespace Sys2Proof.Machine

@[simp] theorem exec_classify (v : Word16) (t : Byte) (s : State) :
    exec (.classify v t) s = .next (answer (.classified (classify v t)) s) := rfl

/-! ## The two comparisons, as numbers (R112) -/

theorem tempCritical_iff (t : Byte) : tempCritical t = true ↔ 60 < t.toNat := by
  rw [tempCritical, decide_eq_true_iff, BitVec.lt_def]
  rfl

theorem voltageLow_iff (v : Word16) : voltageLow v = true ↔ v.toNat < 3100 := by
  rw [voltageLow, decide_eq_true_iff, BitVec.lt_def]
  rfl

/-- The two tests in their order, each on the number its operand stands for (R110). -/
theorem classify_eq (v : Word16) (t : Byte) :
    classify v t = if 60 < t.toNat then .critTemp else if v.toNat < 3100 then .warnLowVolt else .ok := by
  simp only [classify, tempCritical_iff, voltageLow_iff]

/-! ## The status of each region (R113) -/

/-- The temperature test is the first, so nothing is asked of the voltage. -/
theorem classify_of_temp_gt (v : Word16) {t : Byte} (ht : 60 < t.toNat) : classify v t = .critTemp := by
  rw [classify_eq, if_pos ht]

theorem classify_of_temp_le_of_volt_lt {v : Word16} {t : Byte} (ht : t.toNat ≤ 60) (hv : v.toNat < 3100) :
    classify v t = .warnLowVolt := by
  rw [classify_eq, if_neg ht.not_gt, if_pos hv]

theorem classify_of_temp_le_of_volt_ge {v : Word16} {t : Byte} (ht : t.toNat ≤ 60) (hv : 3100 ≤ v.toNat) :
    classify v t = .ok := by
  rw [classify_eq, if_neg ht.not_gt, if_neg hv.not_gt]

/-! ## The statements -/

/-- Settles O7: the call records what the classifier gives for its two operands. -/
theorem classifyByTemperatureThenVoltage : Obligations.ClassifyByTemperatureThenVoltage := by
  intro v t s
  rw [exec_classify, classify_eq]
  rfl

/-- Settles O16: the three regions cover all operands, so the status found in each also decides the region. -/
theorem classifierRegions : Obligations.ClassifierRegions := by
  intro v t
  rcases Nat.lt_or_ge 60 t.toNat with ht | ht
  · have hcrit : classify v t = .critTemp := classify_of_temp_gt v ht
    simp only [hcrit, reduceCtorEq, true_iff, false_iff]
    omega
  rcases Nat.lt_or_ge v.toNat 3100 with hv | hv
  · have hlow : classify v t = .warnLowVolt := classify_of_temp_le_of_volt_lt ht hv
    simp only [hlow, reduceCtorEq, true_iff, false_iff]
    omega
  · have hok : classify v t = .ok := classify_of_temp_le_of_volt_ge ht hv
    simp only [hok, reduceCtorEq, true_iff, false_iff]
    omega

end Sys2Proof.Machine
end

section
/-! The payload marshaller: the frame BUILD makes, byte by byte, and what its call records in any state (R120). -/

namespace Sys2Proof.Machine

@[simp] theorem exec_build (v : Word16) (t : Byte) (c : StatusCode) (s : State) :
    exec (.build v t c) s = .next (answer (.built (build ⟨v, t⟩ c)) s) := rfl

/-- The voltage high byte first, then low, the temperature, the tag of the status as given, and four zeros. -/
theorem build_eq (r : Reading) (c : StatusCode) :
    build r c =
      { id := Config.egressId
        len := Config.egressLen
        payload := #v[(split16 r.voltageMv).1, (split16 r.voltageMv).2, r.tempC, tagOf c, 0#8, 0#8, 0#8, 0#8] } := rfl

/-- The three tags as numbers (R54). -/
theorem tagOf_eq (c : StatusCode) :
    tagOf c = match c with | .ok => 0#8 | .warnLowVolt => 1#8 | .critTemp => 2#8 := by
  cases c with
  | ok => rfl
  | warnLowVolt => rfl
  | critTemp => rfl

/-! ## The statement -/

/-- Settles O8: the call records the frame of its operands, whose tag is the number of the status it was given. -/
theorem buildPlacesReadingAndTag : Obligations.BuildPlacesReadingAndTag := by
  intro v t c s
  rw [exec_build, build_eq, tagOf_eq]
  rfl

end Sys2Proof.Machine
end

section
/-! The decoder and the encoder: each layout of a port word is written as it is read (R50, R53, R54, R57), an event word
selects its operation by the priority of R58, and what an input selects applies in the state it is selected in
(R59). -/

namespace Sys2Proof

open Machine

/-! ## The layouts, as bytes -/

@[simp] theorem bytes16_assemble16 (h l : Byte) : bytes16 (assemble16 h l) = [h, l] := by
  simp [bytes16]

theorem bytes32_eq (v : Word32) :
    bytes32 v = [(split32 v).1, (split32 v).2.1, (split32 v).2.2.1, (split32 v).2.2.2] := rfl

@[simp] theorem bytes32_assemble32 (a b c d : Byte) : bytes32 (assemble32 a b c d) = [a, b, c, d] := by
  simp [bytes32_eq]

/-- The constants and the data bytes of a serial frame, most significant identifier byte first (R53). -/
theorem frmBytes_big_eq (h l t : Byte) (c : StatusCode) :
    frmBytes .big h l t c = bytes32 Config.egressId ++ [Config.egressLen, h, l, t, tagOf c, 0#8, 0#8, 0#8, 0#8] := rfl

/-- The same with the identifier's bytes the other way round. -/
theorem frmBytes_little_eq (h l t : Byte) (c : StatusCode) :
    frmBytes .little h l t c =
      (bytes32 Config.egressId).reverse ++ [Config.egressLen, h, l, t, tagOf c, 0#8, 0#8, 0#8, 0#8] := rfl

/-- The row of the table that a serial frame in an order belongs to. -/
def frameRow : IdOrder → Byte → Byte → Byte → StatusCode → Instr
  | .big => .egressFrameBig
  | .little => .egressFrameLittle

/-! ## A port word that is read is the word written for its operation -/

theorem encode_of_decodePkt {bytes : List Byte} {i : Instr} (h : decodePkt bytes = .ok i) :
    encode i = some (.word .pkt bytes) := by
  unfold decodePkt at h
  split at h
  · split_ifs at h with hs
    cases h
    rw [hs]
    rfl
  · cases h

/-- A serial frame that is read carries this block's constants, and the tag of the status it is read with (R53, R63). -/
theorem decodeFrm_eq_ok {order : IdOrder} {bytes : List Byte} {i : Instr} (h : decodeFrm order bytes = .ok i) :
    ∃ b0 b1 b2 c, bytes = frmBytes order b0 b1 b2 c ∧ i = frameRow order b0 b1 b2 c := by
  unfold decodeFrm at h
  split at h
  · rename_i i0 i1 i2 i3 n b0 b1 b2 tag z0 z1 z2 z3
    dsimp only at h
    split_ifs at h with hconst
    obtain ⟨hid, hlen, hpad⟩ := hconst
    split at h
    · rename_i c hc
      refine ⟨b0, b1, b2, c, ?_, ?_⟩
      · cases order <;>
          simp only [frmBytes_big_eq, frmBytes_little_eq, ← hid, hlen, tagOf_of_statusOf hc, ← hpad,
            bytes32_assemble32] <;> rfl
      · cases order <;> cases h <;> rfl
    · cases h
  · cases h

theorem encode_of_decodeTag {bytes : List Byte} {i : Instr} (h : decodeTag bytes = .ok i) :
    encode i = some (.word .tag bytes) := by
  unfold decodeTag at h
  split at h
  · split at h <;> cases h
    case h_1 hc => exact congrArg (fun s => some (Input.word .tag [s])) (tagOf_of_statusOf hc)
    case h_2 hc => exact congrArg (fun s => some (Input.word .tag [s])) (tagOf_of_statusOf hc)
    case h_3 hc => exact congrArg (fun s => some (Input.word .tag [s])) (tagOf_of_statusOf hc)
    case h_4 => rfl
  · cases h

/-- A BUILD word is the one layout that two operations can be read from; the reserved tag is written on the tag port
(R62, log 8). -/
theorem encode_of_decodeBuild {bytes : List Byte} {i : Instr} (h : decodeBuild bytes = .ok i) :
    encode i = some (.word .build bytes) ∨
      ∃ h l t tag : Byte, bytes = [h, l, t, tag] ∧ statusOf tag = none ∧ i = .tagReserved tag := by
  unfold decodeBuild at h
  split at h
  · split at h <;> cases h
    case h_1 hc => left; simp [encode, tagOf_of_statusOf hc]
    case h_2 hc => exact .inr ⟨_, _, _, _, rfl, hc, rfl⟩
  · cases h

theorem encode_of_decodeSerialize {bytes : List Byte} {i : Instr} (h : decodeSerialize bytes = .ok i) :
    encode i = some (.word .serialize bytes) := by
  unfold decodeSerialize at h
  split at h
  · cases h
    simp [encode]
  · cases h

/-- All ports together: the only word that is not written back is a BUILD word with a reserved tag. -/
theorem encode_of_decodeWord {p : Port} {bytes : List Byte} {i : Instr} (h : decodeWord p bytes = .ok i) :
    encode i = some (.word p bytes) ∨
      (p = .build ∧ ∃ h l t tag : Byte, bytes = [h, l, t, tag] ∧ statusOf tag = none ∧ i = .tagReserved tag) := by
  cases p with
  | pkt => exact .inl (encode_of_decodePkt h)
  | frmBig =>
    obtain ⟨b0, b1, b2, c, rfl, rfl⟩ := decodeFrm_eq_ok (order := .big) h
    exact .inl rfl
  | frmLittle =>
    obtain ⟨b0, b1, b2, c, rfl, rfl⟩ := decodeFrm_eq_ok (order := .little) h
    exact .inl rfl
  | tag => exact .inl (encode_of_decodeTag h)
  | build => exact (encode_of_decodeBuild h).imp_right fun hres => ⟨rfl, hres⟩
  | serialize => exact .inl (encode_of_decodeSerialize h)
  | checksum =>
    simp only [decodeWord, decodeChecksum] at h
    split at h <;> cases h
    exact .inl rfl
  | split16 =>
    simp only [decodeWord, decodeSplit16] at h
    split at h <;> cases h
    simp [encode]
  | encode =>
    simp only [decodeWord, decodeEncode] at h
    split at h <;> cases h
    simp [encode]
  | decode =>
    simp only [decodeWord, decodeDecode] at h
    split at h <;> cases h
    exact .inl rfl
  | classify =>
    simp only [decodeWord, decodeClassify] at h
    split at h <;> cases h
    simp [encode]

/-! ## The word written for an operation is read as that operation -/

theorem decodeFrm_frmBytes (order : IdOrder) (h l t : Byte) (c : StatusCode) :
    decodeFrm order (frmBytes order h l t c) = .ok (frameRow order h l t c) := by
  cases order with
  | big => simp [frmBytes_big_eq, bytes32_eq, decodeFrm, frameRow]
  | little => simp [frmBytes_little_eq, bytes32_eq, decodeFrm, frameRow]

theorem decodeTag_tagOf (c : StatusCode) :
    decodeTag [tagOf c] =
      .ok (match c with | .ok => .tagOk | .warnLowVolt => .tagWarnLowVolt | .critTemp => .tagCritTemp) := by
  cases c <;> rfl

theorem payload_eta (p : Vector Byte Config.payloadLen) : p = #v[p[0], p[1], p[2], p[3], p[4], p[5], p[6], p[7]] := by
  ext i hi
  interval_cases i <;> rfl

theorem decodeSerialize_bytes32 (id : Word32) (n : Byte) (p : Vector Byte Config.payloadLen) :
    decodeSerialize (bytes32 id ++ n :: p.toList) = .ok (.serialize id n p) := by
  rw [payload_eta p, bytes32_eq]
  simp [decodeSerialize]

/-- The encoder's input for each operation but the internal step, read back where the operation is selected. -/
theorem decode_of_encode {st : St} {i : Instr} {x : Input} (hwf : wellFormed i = true) (hen : enabledIn st i = true)
    (hx : encode i = some x) : decode st x = .ok i := by
  cases i <;> cases hx
  case egressFrameBig h l t c => exact decodeFrm_frmBytes .big h l t c
  case egressFrameLittle h l t c => exact decodeFrm_frmBytes .little h l t c
  case tagReserved s =>
    have hs : statusOf s = none := by simpa [wellFormed] using hwf
    exact decode_tag_of_reserved st hs
  case split16 v => simp [decode, decodeWord, decodeSplit16, bytes16]
  case encode v t => simp [decode, decodeWord, decodeEncode, bytes16]
  case classify v t => simp [decode, decodeWord, decodeClassify, bytes16]
  case build v t c => simp [decode, decodeWord, decodeBuild, bytes16]
  case serialize id n p => exact decodeSerialize_bytes32 id n p
  case rxSync =>
    have hst : st = .awaitSync := by simpa [enabledIn] using hen
    simp [decode, decodeEvent, hst]
  case rxSkip b =>
    have hst : st = .awaitSync := by simpa [enabledIn] using hen
    have hb : b ≠ Config.sync := by simpa [wellFormed] using hwf
    simp [decode, decodeEvent, hst, hb]
  case rxData b =>
    have hst : st = .accumulate := by simpa [enabledIn] using hen
    simp [decode, decodeEvent, hst]
  case rxEos =>
    have hst : st = .awaitSync ∨ st = .accumulate := by simpa [enabledIn] using hen
    rcases hst with rfl | rfl <;> rfl
  case rxErr =>
    have hst : st = .awaitSync ∨ st = .accumulate := by simpa [enabledIn] using hen
    rcases hst with rfl | rfl <;> rfl
  case rxNone =>
    have hst : st = .awaitSync ∨ st = .accumulate := by simpa [enabledIn] using hen
    rcases hst with rfl | rfl <;> rfl
  case rxRefused w =>
    have hst : st = .validate ∨ st = .halted := by simpa [enabledIn] using hen
    rcases hst with rfl | rfl <;> rfl
  all_goals rfl

/-- Only the internal step has no input (log 17). -/
theorem encode_eq_none {i : Instr} (h : encode i = none) : i = .validate := by
  cases i with
  | validate => rfl
  | _ => cases h

/-- What a port word is read as can be selected in every state: the events are on no operand port (R23, R162). -/
theorem enabledIn_of_encode_word {i : Instr} {p : Port} {bytes : List Byte} (h : encode i = some (.word p bytes))
    (st : St) : enabledIn st i = true := by
  cases i <;> cases h <;> rfl

/-! ## Event words -/

/-- R58's mask of a bit, as the bit. -/
theorem eventOf_eq_err {w : EventWord} (h : w &&& 0x400#11 = 0x400#11) : eventOf w = some .err := by
  have h10 : w.getLsbD 10 = true := by simpa using congrArg (·.getLsbD 10) h
  rw [eventOf, h10]
  rfl

theorem eventOf_eq_eos {w : EventWord} (h : w &&& 0x600#11 = 0x200#11) : eventOf w = some .eos := by
  have h10 : w.getLsbD 10 = false := by simpa using congrArg (·.getLsbD 10) h
  have h9 : w.getLsbD 9 = true := by simpa using congrArg (·.getLsbD 9) h
  rw [eventOf, h10, h9]
  rfl

theorem eventOf_eq_byte {w : EventWord} (h : w &&& 0x700#11 = 0x100#11) :
    eventOf w = some (.byte (w.extractLsb' 0 8)) := by
  have h10 : w.getLsbD 10 = false := by simpa using congrArg (·.getLsbD 10) h
  have h9 : w.getLsbD 9 = false := by simpa using congrArg (·.getLsbD 9) h
  have h8 : w.getLsbD 8 = true := by simpa using congrArg (·.getLsbD 8) h
  rw [eventOf, h10, h9, h8]
  rfl

theorem eventOf_eq_none {w : EventWord} (h : w &&& 0x700#11 = 0x000#11) : eventOf w = none := by
  have h10 : w.getLsbD 10 = false := by simpa using congrArg (·.getLsbD 10) h
  have h9 : w.getLsbD 9 = false := by simpa using congrArg (·.getLsbD 9) h
  have h8 : w.getLsbD 8 = false := by simpa using congrArg (·.getLsbD 8) h
  rw [eventOf, h10, h9, h8]
  rfl

/-- An event word is its three flags above its data byte (R58). -/
theorem eventWord_append (w : EventWord) : w.extractLsb' 8 3 ++ w.extractLsb' 0 8 = w := by
  rw [BitVec.extractLsb'_append_extractLsb'_eq_extractLsb' (by rfl)]
  exact BitVec.extractLsb'_eq_self

theorem append_and_flags (flags mask : BitVec 3) (data : Byte) :
    ((flags ++ data) &&& (mask ++ 0#8) : BitVec 11) = (flags &&& mask) ++ 0#8 := by
  exact BitVec.and_append.trans (by rw [BitVec.and_zero])

/-- R58's masks look at the three bits above the data byte. -/
theorem eventWord_and_flags (w : EventWord) (mask : BitVec 3) :
    w &&& (mask ++ 0#8) = (w.extractLsb' 8 3 &&& mask) ++ 0#8 := by
  conv_lhs => rw [← eventWord_append w]
  exact append_and_flags _ _ _

/-- The four masks of R58 leave no word out. -/
theorem eventWord_masks (w : EventWord) :
    w &&& 0x400#11 = 0x400#11 ∨ w &&& 0x600#11 = 0x200#11 ∨ w &&& 0x700#11 = 0x100#11 ∨
      w &&& 0x700#11 = 0x000#11 := by
  have h4 := eventWord_and_flags w 4#3
  have h6 := eventWord_and_flags w 6#3
  have h7 := eventWord_and_flags w 7#3
  simp only [BitVec.reduceAppend] at h4 h6 h7
  rw [h4, h6, h7]
  generalize w.extractLsb' 8 3 = flags
  revert flags
  decide

/-- A byte word is the sync byte's exactly when it is 0x1AA (R65). -/
theorem byteWord_sync_iff (w : EventWord) (h : w &&& 0x700#11 = 0x100#11) :
    w.extractLsb' 0 8 = Config.sync ↔ w = 0x1AA#11 := by
  have hflags : w.extractLsb' 8 3 = 1#3 := by
    have h7 := eventWord_and_flags w 7#3
    simp only [BitVec.reduceAppend] at h7
    rw [h7] at h
    generalize w.extractLsb' 8 3 = flags at h ⊢
    revert flags
    decide
  constructor
  · intro hdata
    rw [← eventWord_append w, hflags, hdata]
    rfl
  · rintro rfl
    rfl

/-- The operation an event word selects is one that R59 selects in that state. -/
theorem enabledIn_decodeEvent (st : St) (w : EventWord) : enabledIn st (decodeEvent st w) = true := by
  cases st with
  | awaitSync =>
    simp only [decodeEvent]
    split
    · split_ifs <;> rfl
    all_goals rfl
  | accumulate =>
    simp only [decodeEvent]
    split <;> rfl
  | validate => rfl
  | halted => rfl

/-! ## The statements -/

/-- Settles O41: what the encoder writes for each operation, read in the layout it was written in. -/
theorem decodeOfEncodeIsTheOperation : Obligations.DecodeOfEncodeIsTheOperation := by
  intro st i hwf hen
  cases hx : encode i with
  | none => exact .inl ⟨encode_eq_none hx, rfl⟩
  | some x => exact .inr ⟨x, rfl, decode_of_encode hwf hen hx⟩

/-- Settles O42: port by port, a layout that is read is written back; the tags without a status are 3 and above. -/
theorem encodeOfDecodeIsTheWord : Obligations.EncodeOfDecodeIsTheWord := by
  intro st p bytes i h
  refine (encode_of_decodeWord h).imp_right ?_
  rintro ⟨hp, b0, b1, b2, tag, hbytes, htag, hi⟩
  exact ⟨hp, b0, b1, b2, tag, hbytes, (statusOf_eq_none_iff tag).1 htag, hi⟩

/-- What an input selects applies where it is selected (R59). -/
theorem enabledIn_of_decode {st : St} {x : Input} {i : Instr} (h : decode st x = .ok i) : enabledIn st i = true := by
  cases x with
  | reset => cases h; rfl
  | event w => cases h; exact enabledIn_decodeEvent st w
  | word p bytes =>
    rcases encode_of_decodeWord h with hx | ⟨-, -, -, -, -, -, -, rfl⟩
    · exact enabledIn_of_encode_word hx st
    · rfl

/-- Settles O39: event words by R59's table, port words in every state. -/
theorem selectedOperationApplies : Obligations.SelectedOperationApplies :=
  fun _ _ _ h => enabledIn_of_decode h

/-- Settles O38: by the priority of R58 each mask fixes the event, and R59's table the operation. -/
theorem eventWordSelectsByPriority : Obligations.EventWordSelectsByPriority := by
  intro w
  refine ⟨fun h => ?_, fun h => ?_, fun h => ?_, fun h => ?_, eventWord_masks w, rfl, rfl⟩
  · simp [decodeEvent, eventOf_eq_err h]
  · simp [decodeEvent, eventOf_eq_eos h]
  · simp only [decodeEvent, eventOf_eq_byte h, byteWord_sync_iff w h, and_true]
  · simp [decodeEvent, eventOf_eq_none h]

/-- Settles O40: each word evaluated. -/
theorem writtenWordsDecode : Obligations.WrittenWordsDecode :=
  ⟨rfl, rfl, rfl, rfl, rfl, rfl, rfl, rfl, rfl⟩

end Sys2Proof
end

section
/-! What every operation adds to the two outputs and leaves of the script, and from it what every step keeps: frames
one to one with Readings, lawful frames, and the bytes that pay for them (R131, R133). -/

namespace Sys2Proof

open Machine

/-! ## What an operation does to the outputs and the script -/

/-- The trace grows by what the event output of the step stands for, or not at all (R19, R43, R131). -/
theorem exec_trace {i : Instr} {s t : State} (h : exec i s = .next t) :
    t.trace = s.trace ∨ t.trace = s.trace ++ outputsOf t.evOut := by
  rcases exec_eq_next h with ⟨r, rfl⟩ | ⟨a, b, c, d, -, rfl⟩ | ⟨-, -, rfl⟩ | ⟨b, -, -, -, rfl⟩ |
    ⟨b, hlt, -, -, -, rfl⟩ | ⟨b, hlt, -, -, -, rfl⟩ | ⟨r, -, -, -, rfl⟩ | ⟨e, -, -, -, rfl⟩ |
    ⟨-, -, rfl⟩ | ⟨-, -, rfl⟩ | ⟨-, rfl⟩ | ⟨w, -, -, rfl⟩ | ⟨-, rfl⟩
  any_goals exact .inl rfl
  · rcases deliver_cases r s with hwait | hsent
    · rw [hwait]; exact .inl rfl
    · rw [hsent]; exact .inr rfl
  · exact .inr rfl
  · exact .inr rfl
  · exact .inr rfl

/-- The units' record only grows (log 5). -/
theorem exec_unitOut {i : Instr} {s t : State} (h : exec i s = .next t) :
    ∃ r : List UnitResult, t.unitOut = s.unitOut ++ r := by
  rcases exec_eq_next h with ⟨r, rfl⟩ | ⟨a, b, c, d, -, rfl⟩ | ⟨-, -, rfl⟩ | ⟨b, -, -, -, rfl⟩ |
    ⟨b, hlt, -, -, -, rfl⟩ | ⟨b, hlt, -, -, -, rfl⟩ | ⟨r, -, -, -, rfl⟩ | ⟨e, -, -, -, rfl⟩ |
    ⟨-, -, rfl⟩ | ⟨-, -, rfl⟩ | ⟨-, rfl⟩ | ⟨w, -, -, rfl⟩ | ⟨-, rfl⟩
  any_goals exact ⟨[], (List.append_nil _).symm⟩
  · exact ⟨[r], rfl⟩
  · rcases deliver_cases r s with hwait | hsent
    · rw [hwait]; exact ⟨[], (List.append_nil _).symm⟩
    · rw [hsent]; exact ⟨[], (List.append_nil _).symm⟩

/-- Only a packet on the wire puts anything back on the script (log 6). -/
theorem exec_script {i : Instr} {s t : State} (h : exec i s = .next t) :
    t.script = s.script ∨ ∃ a b c d, i = .ingestPacket a b c d := by
  rcases exec_eq_next h with ⟨r, rfl⟩ | ⟨a, b, c, d, hi, rfl⟩ | ⟨-, -, rfl⟩ | ⟨b, -, -, -, rfl⟩ |
    ⟨b, hlt, -, -, -, rfl⟩ | ⟨b, hlt, -, -, -, rfl⟩ | ⟨r, -, -, -, rfl⟩ | ⟨e, -, -, -, rfl⟩ |
    ⟨-, -, rfl⟩ | ⟨-, -, rfl⟩ | ⟨-, rfl⟩ | ⟨w, -, -, rfl⟩ | ⟨-, rfl⟩
  any_goals exact .inl rfl
  · exact .inr ⟨a, b, c, d, hi⟩
  · rcases deliver_cases r s with hwait | hsent
    · rw [hwait]; exact .inl rfl
    · rw [hsent]; exact .inl rfl

theorem step_trace {s t : State} (h : step s = .next t) :
    t.trace = s.trace ∨ t.trace = s.trace ++ outputsOf t.evOut := by
  obtain ⟨i, l, hexec, -⟩ := step_next_cases h
  exact exec_trace (s := { s with script := l }) hexec

theorem step_unitOut {s t : State} (h : step s = .next t) : ∃ r : List UnitResult, t.unitOut = s.unitOut ++ r := by
  obtain ⟨i, l, hexec, -⟩ := step_next_cases h
  exact exec_unitOut (s := { s with script := l }) hexec

/-! ## What an event puts out -/

/-- A READING has its frame behind it, and no other event has one (R131, R132). -/
theorem framesOf_outputsOf (e : Event) :
    framesOf (outputsOf e) = (readingsOf (outputsOf e)).map fun r => build r (classify r.voltageMv r.tempC) := by
  cases e <;> rfl

/-- The tag of the classifier's status, by its two comparisons (R54, R110). -/
theorem tagOf_classify (v : Word16) (t : Byte) :
    tagOf (classify v t) = if 60 < t.toNat then Config.tagCritTemp
      else if v.toNat < 3100 then Config.tagWarnLowVolt else Config.tagOk := by
  rw [classify_eq]
  split_ifs <;> rfl

/-- The tag BUILD places is the one that its own data bytes call for, when the status is the classifier's (R121). -/
theorem frameLawful_build (r : Reading) : FrameLawful (build r (classify r.voltageMv r.tempC)) := by
  refine ⟨rfl, rfl, rfl, rfl, rfl, rfl, ?_⟩
  have hvolt : (split16 r.voltageMv).1.toNat * 256 + (split16 r.voltageMv).2.toNat = r.voltageMv.toNat := by
    rw [← assemble16_toNat, assemble16_split16]
  have htag := tagOf_classify r.voltageMv r.tempC
  rw [← hvolt] at htag
  exact htag

theorem frameLawful_of_mem_outputsOf {e : Event} {f : EgressFrame} (h : f ∈ framesOf (outputsOf e)) :
    FrameLawful f := by
  rw [framesOf_outputsOf, List.mem_map] at h
  obtain ⟨r, -, rfl⟩ := h
  exact frameLawful_build r

/-! ## The statements about the outputs -/

/-- Settles O44: both halves of the law read a trace piece by piece, and a step's piece is one event's outputs. -/
theorem stepKeepsFramesMatchingReadings : Obligations.StepKeepsFramesMatchingReadings := by
  intro s t hs hstep
  rcases step_trace hstep with hsame | hadded
  · rw [hsame]
    exact hs
  · rw [FramesMatchReadings, hadded, framesOf_append, readingsOf_append, List.map_append, ← framesOf_outputsOf]
    exact congrArg (· ++ _) hs

/-- Settles O45: a frame is an old one or the one BUILD makes of the step's Reading and its status. -/
theorem stepKeepsFramesLawful : Obligations.StepKeepsFramesLawful := by
  intro s t hs hstep f hf
  rcases step_trace hstep with hsame | hadded
  · rw [hsame] at hf
    exact hs f hf
  · rw [hadded, framesOf_append, List.mem_append] at hf
    exact hf.elim (hs f) frameLawful_of_mem_outputsOf

/-- Settles O47: the outputs of each event are nothing, the event, or a READING and its frame. -/
theorem outputsAreOnlyAppended : Obligations.OutputsAreOnlyAppended := by
  intro s t hstep
  refine ⟨step_unitOut hstep, ?_⟩
  rcases step_trace hstep with hsame | hadded
  · exact .inl hsame
  · cases he : t.evOut with
    | none => exact .inl (by rw [hadded, he]; exact List.append_nil _)
    | reading r => exact .inr (.inr ⟨r, _, rfl, by rw [hadded, he]; rfl⟩)
    | checksumDrop => exact .inr (.inl ⟨_, by simp, rfl, by rw [hadded, he]; rfl⟩)
    | streamClosed => exact .inr (.inl ⟨_, by simp, rfl, by rw [hadded, he]; rfl⟩)
    | transportError => exact .inr (.inl ⟨_, by simp, rfl, by rw [hadded, he]; rfl⟩)

/-! ## The bytes that pay for a frame -/

/-- The bytes that an operation brings to the window or back to the script. -/
def bytesBrought : Instr → Nat
  | .ingestPacket _ _ _ _ => Config.pktLen
  | .rxSync => 1
  | .rxData _ => 1
  | _ => 0

/-- Without the script, a state's budget is its frames and its window. -/
theorem byteBudget_with_script (s : State) (l : List Input) :
    byteBudget { s with script := l } =
      Config.pktLen * (framesOf s.trace).length + s.cnt.val + (l.map bytesIn).sum := rfl

theorem sum_bytesIn_packetEvents (p : IngestPacket) : ((packetEvents p).map bytesIn).sum = Config.pktLen := by
  have hone : ∀ b : Byte, bytesIn (.event (eventWord (.byte b))) = 1 := fun b => by simp [bytesIn]
  simp [packetEvents, Function.comp_def, hone]

/-- A taken input is taken once: its bytes leave the script. -/
theorem sum_bytesIn_of_nextInput {s : State} {x : Input} {l : List Input} (h : nextInput s = some (x, l)) :
    (s.script.map bytesIn).sum = bytesIn x + (l.map bytesIn).sum := by
  rcases nextInput_eq_some h with hhead | ⟨-, haside⟩
  · simp [hhead]
  · obtain ⟨-, before, after, hscript, rfl, -⟩ := firstAside_eq_some haside
    simp only [hscript, List.map_append, List.map_cons, List.sum_append, List.sum_cons]
    omega

/-- Where an event word selects a byte's operation, it carries a byte. -/
theorem bytesBrought_decodeEvent_le (st : St) (w : EventWord) :
    bytesBrought (decodeEvent st w) ≤ bytesIn (.event w) := by
  cases st with
  | awaitSync =>
    simp only [decodeEvent, bytesIn]
    cases eventOf w with
    | none => exact le_rfl
    | some e =>
      cases e with
      | byte b =>
        dsimp only
        split_ifs
        · exact le_rfl
        · exact Nat.zero_le 1
      | eos => exact le_rfl
      | err => exact le_rfl
  | accumulate =>
    simp only [decodeEvent, bytesIn]
    cases eventOf w with
    | none => exact le_rfl
    | some e => cases e <;> exact le_rfl
  | validate => exact Nat.zero_le _
  | halted => exact Nat.zero_le _

/-- An operation brings no more bytes than its input had. -/
theorem bytesBrought_le_of_decode {st : St} {x : Input} {i : Instr} (h : decode st x = .ok i) :
    bytesBrought i ≤ bytesIn x := by
  cases x with
  | reset => cases h; exact le_rfl
  | event w => cases h; exact bytesBrought_decodeEvent_le st w
  | word p bytes =>
    rcases encode_of_decodeWord h with hx | ⟨-, -, -, -, -, -, -, rfl⟩
    · cases i <;> cases hx <;> exact le_rfl
    · exact Nat.zero_le _

theorem bytesBrought_idleInstr (s : State) : bytesBrought (idleInstr s) = 0 := by
  unfold idleInstr
  cases s.st <;> rfl

/-- The frame of a delivery is paid for with the five bytes of the window. -/
theorem byteBudget_deliver_le (r : Reading) {s : State} (hcnt : s.cnt.val = Config.pktLen) :
    byteBudget (deliver r s) ≤ byteBudget s := by
  rcases deliver_cases r s with hwait | hsent
  · rw [hwait]
    exact le_rfl
  · rw [hsent]
    simp [byteBudget, hcnt, framesOf, Nat.mul_add]

theorem byteBudget_offerChunk (p : IngestPacket) (s : State) :
    byteBudget (offerChunk p s) = byteBudget s + Config.pktLen := by
  have hsum : ((offerChunk p s).script.map bytesIn).sum = Config.pktLen + (s.script.map bytesIn).sum := by
    rw [offerChunk_script, List.map_append, List.sum_append, sum_bytesIn_packetEvents]
  rw [byteBudget, hsum, byteBudget, offerChunk_trace, offerChunk_cnt]
  omega

/-- Where no frame goes out and the script stays, the budget grows by what the window gains. -/
theorem byteBudget_le_of_window {s t : State} {n : Nat} (hframes : framesOf t.trace = framesOf s.trace)
    (hcnt : t.cnt.val ≤ s.cnt.val + n) (hscript : t.script = s.script) : byteBudget t ≤ byteBudget s + n := by
  simp only [byteBudget, hframes, hscript]
  omega

/-- No operation gains more than the bytes it brings. -/
theorem byteBudget_exec_le {i : Instr} {s t : State} (hs : RegisterInv s) (h : exec i s = .next t) :
    byteBudget t ≤ byteBudget s + bytesBrought i := by
  rcases exec_eq_next h with ⟨r, rfl⟩ | ⟨a, b, c, d, rfl, rfl⟩ | ⟨rfl, -, rfl⟩ | ⟨b, -, -, -, rfl⟩ |
    ⟨b, hlt, rfl, -, -, rfl⟩ | ⟨b, hlt, rfl, -, -, rfl⟩ | ⟨r, -, hst, -, rfl⟩ | ⟨e, -, -, -, rfl⟩ |
    ⟨-, -, rfl⟩ | ⟨-, -, rfl⟩ | ⟨-, rfl⟩ | ⟨w, -, -, rfl⟩ | ⟨-, rfl⟩
  · exact byteBudget_le_of_window rfl (Nat.le_add_right _ _) rfl
  · exact (byteBudget_offerChunk _ s).le
  · exact byteBudget_le_of_window rfl (Nat.le_add_left 1 _) rfl
  · exact byteBudget_le_of_window rfl (Nat.le_add_right _ _) rfl
  · exact byteBudget_le_of_window rfl le_rfl rfl
  · exact byteBudget_le_of_window rfl le_rfl rfl
  · obtain ⟨hcnt, -, -⟩ := (registerInv_iff_of_validate hst).1 hs
    exact (byteBudget_deliver_le r hcnt).trans (Nat.le_add_right _ _)
  · exact byteBudget_le_of_window (by simp [framesOf]) (Nat.zero_le _) rfl
  · exact byteBudget_le_of_window (by simp [framesOf]) (Nat.zero_le _) rfl
  · exact byteBudget_le_of_window (by simp [framesOf]) (Nat.zero_le _) rfl
  · exact byteBudget_le_of_window rfl (Nat.le_add_right _ _) rfl
  · exact byteBudget_le_of_window rfl (Nat.le_add_right _ _) rfl
  · exact byteBudget_le_of_window rfl (Nat.zero_le _) rfl

/-- An input taken off the script, its bytes no longer count. -/
theorem byteBudget_of_nextInput {s : State} {x : Input} {l : List Input} (h : nextInput s = some (x, l)) :
    byteBudget s = byteBudget { s with script := l } + bytesIn x := by
  have hsum := sum_bytesIn_of_nextInput h
  rw [byteBudget_with_script s l, byteBudget, hsum]
  omega

/-- Settles O46: what an operation brings, its input gave up. -/
theorem everyFrameCostsFiveBytes : Obligations.EveryFrameCostsFiveBytes := by
  intro s t hs hstep
  obtain ⟨i, l, hexec, hfetch⟩ := step_next_cases hstep
  have hle := byteBudget_exec_le ((registerInv_with_script s l).2 hs) hexec
  rcases hfetch with ⟨-, rfl, rfl⟩ | ⟨x, hx, hi⟩
  · rw [bytesBrought_idleInstr] at hle
    exact hle
  · rw [byteBudget_of_nextInput hx]
    exact hle.trans (Nat.add_le_add_left (bytesBrought_le_of_decode hi) _)

end Sys2Proof
end

section
/-! The resynchroniser's operations, one equation for each state that selects them, and the one answer elsewhere (R59,
log 12); hence which steps stop, and where (R105). -/

namespace Sys2Proof

open Machine

/-! ## The operations in the states that select them -/

@[simp] theorem exec_rxNone (s : State) : exec .rxNone s = .next s := rfl

@[simp] theorem exec_reset (s : State) : exec .reset s = .next (resetBlock s) := rfl

@[simp] theorem exec_ingestPacket (h l t c : Byte) (s : State) :
    exec (.ingestPacket h l t c) s = .next (offerChunk #v[Config.sync, h, l, t, c] s) := rfl

theorem exec_rxEos_of_reading {s : State} (hst : s.st = .awaitSync ∨ s.st = .accumulate) :
    exec .rxEos s = .next (raiseFatal .streamClosed s) := by
  rcases hst with hst | hst <;> simp only [exec, execRxEos, hst]

theorem exec_rxErr_of_reading {s : State} (hst : s.st = .awaitSync ∨ s.st = .accumulate) :
    exec .rxErr s = .next (raiseFatal .transportError s) := by
  rcases hst with hst | hst <;> simp only [exec, execRxErr, hst]

/-- VALIDATE on a window that decodes hands its Reading on (R95). -/
theorem exec_validate_of_ok {s : State} {r : Reading} (hst : s.st = .validate) (hr : decodePacket s.buf = .ok r) :
    exec .validate s = .next (deliver r s) := by
  simp only [exec, execValidate, hst, hr]

/-- Both errors are taken alike (R96, D18). -/
theorem exec_validate_of_err {s : State} {e : DecodeError} (hst : s.st = .validate)
    (he : decodePacket s.buf = .err e) : exec .validate s = .next (dropWindow s) := by
  cases e <;> simp only [exec, execValidate, hst, he]

/-- Where `st` does not select an operation, it stops by that name (log 12); waiting alone has a meaning everywhere. -/
theorem exec_of_not_enabled {i : Instr} {s : State} (h : enabledIn s.st i = false) (hi : i ≠ .rxNone) :
    exec i s = .fault .notEnabled := by
  cases i
  case rxSync =>
    simp only [exec, execRxSync]
    split
    case h_1 hst => simp [enabledIn, hst] at h
    all_goals rfl
  case rxSkip b =>
    simp only [exec, execRxSkip]
    split
    case h_1 hst => simp [enabledIn, hst] at h
    all_goals rfl
  case rxData b =>
    simp only [exec, execRxData]
    split
    case h_1 hst => simp [enabledIn, hst] at h
    all_goals rfl
  case validate =>
    simp only [exec, execValidate]
    split
    case h_1 hst => simp [enabledIn, hst] at h
    all_goals rfl
  case rxEos =>
    simp only [exec, execRxEos]
    split
    case h_1 hst => simp [enabledIn, hst] at h
    case h_2 hst => simp [enabledIn, hst] at h
    all_goals rfl
  case rxErr =>
    simp only [exec, execRxErr]
    split
    case h_1 hst => simp [enabledIn, hst] at h
    case h_2 hst => simp [enabledIn, hst] at h
    all_goals rfl
  case rxNone => exact absurd rfl hi
  case rxRefused w =>
    simp only [exec, execRxRefused]
    split
    case h_1 hst => simp [enabledIn, hst] at h
    case h_2 hst => simp [enabledIn, hst] at h
    all_goals rfl
  all_goals cases h

/-- The sync byte is never skipped, whatever the state (R91, log 12). -/
theorem exec_rxSkip_sync (s : State) : exec (.rxSkip Config.sync) s = .fault .notEnabled := by
  simp only [exec, execRxSkip]
  split <;> rfl

/-! ## Which steps stop -/

/-- Under R18's table an operation that `st` selects has a next state, but for RX_REFUSED in HALTED (R105). -/
theorem exec_of_enabled {i : Instr} {s : State} (hs : RegisterInv s) (hen : enabledIn s.st i = true)
    (hskip : i ≠ .rxSkip Config.sync) :
    (∃ t, exec i s = .next t) ∨ (s.st = .halted ∧ exec i s = .fault .halted) := by
  cases i
  case rxSync =>
    have hst : s.st = .awaitSync := by simpa [enabledIn] using hen
    exact .inl ⟨_, exec_rxSync_of_awaitSync hst⟩
  case rxSkip b =>
    have hst : s.st = .awaitSync := by simpa [enabledIn] using hen
    exact .inl ⟨_, exec_rxSkip_of_awaitSync hst fun hb => hskip (hb ▸ rfl)⟩
  case rxData b =>
    have hst : s.st = .accumulate := by simpa [enabledIn] using hen
    obtain ⟨-, hlt, -, -⟩ := (registerInv_iff_of_accumulate hst).1 hs
    exact .inl ⟨_, exec_rxData_of_accumulate b hlt hst⟩
  case validate =>
    have hst : s.st = .validate := by simpa [enabledIn] using hen
    cases hp : decodePacket s.buf with
    | ok r => exact .inl ⟨_, exec_validate_of_ok hst hp⟩
    | err e => exact .inl ⟨_, exec_validate_of_err hst hp⟩
  case rxEos =>
    have hst : s.st = .awaitSync ∨ s.st = .accumulate := by simpa [enabledIn] using hen
    exact .inl ⟨_, exec_rxEos_of_reading hst⟩
  case rxErr =>
    have hst : s.st = .awaitSync ∨ s.st = .accumulate := by simpa [enabledIn] using hen
    exact .inl ⟨_, exec_rxErr_of_reading hst⟩
  case rxRefused w =>
    have hst : s.st = .validate ∨ s.st = .halted := by simpa [enabledIn] using hen
    rcases hst with hst | hst
    · exact .inl ⟨_, exec_rxRefused_of_validate w hst⟩
    · exact .inr ⟨hst, exec_rxRefused_of_halted w hst⟩
  all_goals exact .inl ⟨_, rfl⟩

/-- The decoder reads the sync byte as RX_SYNC where it could be skipped (R90, R91). -/
theorem ne_rxSkip_sync_of_decode {st : St} {x : Input} {i : Instr} (h : decode st x = .ok i) :
    i ≠ .rxSkip Config.sync := by
  rintro rfl
  cases x with
  | reset => cases h
  | event w =>
    cases st with
    | awaitSync =>
      simp only [decode, decodeEvent, Except.ok.injEq] at h
      split at h <;> try cases h
      split_ifs at h with hb
      cases h
      exact hb rfl
    | accumulate =>
      simp only [decode, decodeEvent, Except.ok.injEq] at h
      split at h <;> cases h
    | validate => cases h
    | halted => cases h
  | word p bytes =>
    rcases encode_of_decodeWord h with hx | ⟨-, _, _, _, _, -, -, hi⟩
    · cases hx
    · cases hi

theorem enabledIn_idleInstr (s : State) : enabledIn s.st (idleInstr s) = true := by
  unfold idleInstr
  cases s.st <;> rfl

theorem idleInstr_ne_rxSkip (s : State) (b : Byte) : idleInstr s ≠ .rxSkip b := by
  unfold idleInstr
  cases s.st <;> simp

/-- Settles O48: what a step runs is selected by `st`, so it stops in HALTED alone. -/
theorem onlyTheHaltedBlockFaults : Obligations.OnlyTheHaltedBlockFaults := by
  intro s f hs hfault
  obtain ⟨i, l, hexec, hfetch⟩ := step_fault_cases hfault
  have hsel : enabledIn s.st i = true ∧ i ≠ .rxSkip Config.sync := by
    rcases hfetch with ⟨-, rfl, -⟩ | ⟨x, -, hi⟩
    · exact ⟨enabledIn_idleInstr s, idleInstr_ne_rxSkip s _⟩
    · exact ⟨enabledIn_of_decode hi, ne_rxSkip_sync_of_decode hi⟩
  rcases exec_of_enabled (s := { s with script := l }) ((registerInv_with_script s l).2 hs) hsel.1 hsel.2 with
    ⟨t, hnext⟩ | ⟨hst, hhalted⟩
  · cases hexec.symm.trans hnext
  · cases hexec.symm.trans hhalted
    exact ⟨rfl, hst⟩

/-- What an event word selects is written as an event word: no packet on the wire, no call of a unit and no RESET. -/
theorem encode_decodeEvent (st : St) (w : EventWord) : ∃ w', encode (decodeEvent st w) = some (.event w') := by
  cases st with
  | awaitSync =>
    simp only [decodeEvent]
    split
    · split_ifs <;> exact ⟨_, rfl⟩
    all_goals exact ⟨_, rfl⟩
  | accumulate =>
    simp only [decodeEvent]
    split <;> exact ⟨_, rfl⟩
  | validate => exact ⟨_, rfl⟩
  | halted => exact ⟨_, rfl⟩

/-- An event word offered to a reading block has its step, whatever the word (R105). -/
theorem step_event_of_reading {s : State} {w : EventWord} {rest : List Input} (hs : RegisterInv s)
    (hst : s.st = .awaitSync ∨ s.st = .accumulate) (hscript : s.script = .event w :: rest) :
    ∃ t, step s = .next t ∧ t.script = rest := by
  have hi : decode s.st (.event w) = .ok (decodeEvent s.st w) := rfl
  rw [step_of_reading hst hscript hi]
  rcases exec_of_enabled (s := { s with script := rest }) ((registerInv_with_script s rest).2 hs)
    (enabledIn_of_decode hi) (ne_rxSkip_sync_of_decode hi) with ⟨t, hnext⟩ | ⟨hhalted, -⟩
  · refine ⟨t, hnext, ?_⟩
    rcases exec_script hnext with hsame | ⟨a, b, c, d, hpkt⟩
    · exact hsame
    · obtain ⟨w', hw'⟩ := encode_decodeEvent s.st w
      cases (hpkt ▸ hw' : encode (.ingestPacket a b c d) = _)
  · have hne : s.st ≠ .halted := by rcases hst with h | h <;> simp [h]
    exact absurd hhalted hne

/-- VALIDATE leaves what is offered as it is (R94). -/
theorem script_of_exec_validate {s t : State} (h : exec .validate s = .next t) : t.script = s.script := by
  rcases exec_script h with hsame | ⟨a, b, c, d, hi⟩
  · exact hsame
  · cases hi

/-- VALIDATE ends the window, or it waits for the sink alone (R94, R135). -/
theorem exec_validate_returns_or_waits {s : State} (hst : s.st = .validate) :
    ∃ t, exec .validate s = .next t ∧
      (t.st = .awaitSync ∨ (s.sinkReady.headD s.sinkAfter = false ∧ t = { s with sinkReady := s.sinkReady.tail })) := by
  cases hp : decodePacket s.buf with
  | err e => exact ⟨_, exec_validate_of_err hst hp, .inl rfl⟩
  | ok r =>
    refine ⟨_, exec_validate_of_ok hst hp, ?_⟩
    cases hsink : sinkTakes s with
    | true => exact .inl (by rw [deliver_of_takes r s hsink])
    | false => exact .inr ⟨hsink, deliver_of_not_takes r s hsink⟩

/-- Settles O49: an event word always selects an operation that has a step, and VALIDATE always has one. -/
theorem readingBlockAlwaysSteps : Obligations.ReadingBlockAlwaysSteps := by
  intro s rest hs
  refine ⟨fun w hst hscript => step_event_of_reading hs hst hscript, fun hst hfirst => ?_⟩
  obtain ⟨t, hnext, hgoes⟩ := exec_validate_returns_or_waits hst
  exact ⟨t, (step_of_validate hst hfirst).trans hnext, script_of_exec_validate hnext, hgoes⟩

/-- Settles O51: nothing is taken, so VALIDATE runs, and it leaves the script alone. -/
theorem validateComesBeforeTheNextEvent : Obligations.ValidateComesBeforeTheNextEvent := by
  intro s x rest hst hx hscript
  have hstep : step s = exec .validate s := by
    refine step_of_validate hst ?_
    rw [hscript]
    exact hx
  refine ⟨hstep, fun t hnext => ?_⟩
  rw [← hscript]
  exact script_of_exec_validate (hstep.symm.trans hnext)

end Sys2Proof
end

section
/-! The bytes of `buf` at and above `cnt` (R16, U4): no input is taken by them, and no operation reads them. -/

namespace Sys2Proof

open Machine

/-! ## Pairs of states that differ in dead bytes -/

/-- A pair of states alike but for dead bytes is a state and a second buffer that agrees below `cnt`. -/
theorem sameButDeadBytes_with_buf {s : State} {b : Vector Byte Config.pktLen}
    (hbytes : ∀ (i : Nat) (h : i < Config.pktLen), i < s.cnt.val → s.buf[i] = b[i]) :
    SameButDeadBytes s { s with buf := b } :=
  ⟨rfl, hbytes⟩

/-- With an empty window all five bytes are dead. -/
theorem sameButDeadBytes_of_cnt_zero {s : State} (hcnt : s.cnt.val = 0) (b : Vector Byte Config.pktLen) :
    SameButDeadBytes s { s with buf := b } :=
  sameButDeadBytes_with_buf fun i _ hi => absurd (hcnt ▸ hi) (Nat.not_lt_zero i)

/-- Where the window is complete no byte is dead. -/
theorem SameButDeadBytes.eq_of_complete {s t : State} (h : SameButDeadBytes s t) (hcnt : s.cnt.val = Config.pktLen) :
    t = s := by
  obtain ⟨ht, hbytes⟩ := h
  have hbuf : t.buf = s.buf := Vector.ext fun i hi => (hbytes i hi (by omega)).symm
  rw [ht, hbuf]

theorem SameButDeadBytes.refl (s : State) : SameButDeadBytes s s :=
  ⟨rfl, fun _ _ _ => rfl⟩

theorem SameButDeadBytes.with_script {s t : State} (h : SameButDeadBytes s t) (l : List Input) :
    SameButDeadBytes { s with script := l } { t with script := l } := by
  obtain ⟨ht, hbytes⟩ := h
  rw [ht]
  exact sameButDeadBytes_with_buf (s := { s with script := l }) hbytes

/-- The byte stored at `cnt` is live in both, and those below it are as they were (R92). -/
theorem sameButDeadBytes_storeByte {s : State} {b : Vector Byte Config.pktLen} (x : Byte)
    (hlt : s.cnt.val < Config.pktLen)
    (hbytes : ∀ (i : Nat) (h : i < Config.pktLen), i < s.cnt.val → s.buf[i] = b[i]) :
    SameButDeadBytes (storeByte x s hlt) (storeByte x { s with buf := b } hlt) := by
  refine ⟨rfl, fun i hi hlive => ?_⟩
  have hle : i < s.cnt.val + 1 := hlive
  simp only [storeByte_buf, Vector.getElem_set]
  split_ifs with heq
  · rfl
  · exact hbytes i hi (by omega)

theorem sameOutcome_refl (o : Host.Outcome State Fault Refusal) : SameOutcome SameButDeadBytes o o := by
  cases o with
  | next s => exact SameButDeadBytes.refl s
  | fault r => rfl
  | refused r => rfl

/-! ## Every operation and every step -/

/-- RX_DATA stores the byte below the new `cnt` in both (R92). -/
theorem exec_rxData_sameOutcome {s : State} (hs : RegisterInv s) (hst : s.st = .accumulate)
    {b : Vector Byte Config.pktLen}
    (hbytes : ∀ (i : Nat) (h : i < Config.pktLen), i < s.cnt.val → s.buf[i] = b[i]) (x : Byte) :
    SameOutcome SameButDeadBytes (exec (.rxData x) s) (exec (.rxData x) { s with buf := b }) := by
  obtain ⟨-, hlt, -, -⟩ := (registerInv_iff_of_accumulate hst).1 hs
  have hstored := sameButDeadBytes_storeByte x hlt hbytes
  by_cases hfull : s.cnt.val + 1 = Config.pktLen
  · rw [exec_rxData_of_last x hlt hst hfull, exec_rxData_of_last x (s := { s with buf := b }) hlt hst hfull]
    exact ⟨rfl, hstored.2⟩
  · rw [exec_rxData_of_not_last x hlt hst hfull, exec_rxData_of_not_last x (s := { s with buf := b }) hlt hst hfull]
    exact ⟨rfl, hstored.2⟩

/-- RX_SYNC makes `buf[0]` the one live byte, and writes it in both (R90). -/
theorem exec_rxSync_sameOutcome {s : State} (hst : s.st = .awaitSync) (b : Vector Byte Config.pktLen) :
    SameOutcome SameButDeadBytes (exec .rxSync s) (exec .rxSync { s with buf := b }) := by
  rw [exec_rxSync_of_awaitSync hst, exec_rxSync_of_awaitSync (s := { s with buf := b }) hst]
  refine ⟨rfl, fun j hj hlive => ?_⟩
  obtain rfl : j = 0 := Nat.lt_one_iff.1 hlive
  exact (Vector.getElem_set_self _).trans (Vector.getElem_set_self _).symm

/-- VALIDATE reads all five bytes, over a complete window (R94). -/
theorem exec_validate_sameOutcome {s t : State} (hs : RegisterInv s) (hst : s.st = .validate)
    (h : SameButDeadBytes s t) : SameOutcome SameButDeadBytes (exec .validate s) (exec .validate t) := by
  obtain ⟨hcnt, -, -⟩ := (registerInv_iff_of_validate hst).1 hs
  rw [h.eq_of_complete hcnt]
  exact sameOutcome_refl _

/-- An operation answers alike, its next states alike but for dead bytes. -/
theorem exec_sameOutcome {s t : State} (hs : RegisterInv s) (h : SameButDeadBytes s t) (i : Instr) :
    SameOutcome SameButDeadBytes (exec i s) (exec i t) := by
  obtain ⟨ht, hbytes⟩ := id h
  generalize t.buf = b at ht hbytes
  subst ht
  by_cases hnone : i = .rxNone
  · subst hnone
    exact ⟨rfl, hbytes⟩
  cases hen : enabledIn s.st i with
  | false =>
    rw [exec_of_not_enabled hen hnone, exec_of_not_enabled (s := { s with buf := b }) hen hnone]
    rfl
  | true =>
    cases i
    case rxSync =>
      have hst : s.st = .awaitSync := by simpa [enabledIn] using hen
      exact exec_rxSync_sameOutcome hst b
    case rxSkip x =>
      have hst : s.st = .awaitSync := by simpa [enabledIn] using hen
      by_cases hx : x = Config.sync
      · rw [hx, exec_rxSkip_sync, exec_rxSkip_sync]
        rfl
      · rw [exec_rxSkip_of_awaitSync hst hx, exec_rxSkip_of_awaitSync (s := { s with buf := b }) hst hx]
        exact ⟨rfl, hbytes⟩
    case rxData x =>
      have hst : s.st = .accumulate := by simpa [enabledIn] using hen
      exact exec_rxData_sameOutcome hs hst hbytes x
    case validate =>
      have hst : s.st = .validate := by simpa [enabledIn] using hen
      exact exec_validate_sameOutcome hs hst h
    case rxEos =>
      have hst : s.st = .awaitSync ∨ s.st = .accumulate := by simpa [enabledIn] using hen
      rw [exec_rxEos_of_reading hst, exec_rxEos_of_reading (s := { s with buf := b }) hst]
      exact sameButDeadBytes_of_cnt_zero (s := raiseFatal .streamClosed s) rfl b
    case rxErr =>
      have hst : s.st = .awaitSync ∨ s.st = .accumulate := by simpa [enabledIn] using hen
      rw [exec_rxErr_of_reading hst, exec_rxErr_of_reading (s := { s with buf := b }) hst]
      exact sameButDeadBytes_of_cnt_zero (s := raiseFatal .transportError s) rfl b
    case rxRefused w =>
      have hst : s.st = .validate ∨ s.st = .halted := by simpa [enabledIn] using hen
      rcases hst with hst | hst
      · rw [exec_rxRefused_of_validate w hst, exec_rxRefused_of_validate w (s := { s with buf := b }) hst]
        exact h
      · rw [exec_rxRefused_of_halted w hst, exec_rxRefused_of_halted w (s := { s with buf := b }) hst]
        rfl
    case reset => exact sameButDeadBytes_of_cnt_zero (s := resetBlock s) rfl b
    all_goals exact ⟨rfl, hbytes⟩

/-- A word that is no word of its port is refused by the step (log 16). -/
theorem step_of_unreadable {s : State} {x : Input} {l : List Input} {e : Unreadable}
    (hx : nextInput s = some (x, l)) (he : decode s.st x = .error e) : step s = .refused (.unreadable e) := by
  simp [step, fetch, hx, he]

/-- Settles O54: what is taken, and what it selects, is settled by `st` and the script; the operation then answers
alike. -/
theorem deadBufferBytesAreUnobservable : Obligations.DeadBufferBytesAreUnobservable := by
  intro s t hs h
  have hst : t.st = s.st := by rw [h.1]
  have hnext : nextInput t = nextInput s := by rw [h.1]; rfl
  have hidle : idleInstr t = idleInstr s := by rw [h.1]; rfl
  cases hn : nextInput s with
  | none =>
    rw [step_of_nextInput_none hn, step_of_nextInput_none (hnext.trans hn), hidle]
    exact exec_sameOutcome hs h _
  | some taken =>
    obtain ⟨x, l⟩ := taken
    cases hd : decode s.st x with
    | error e =>
      rw [step_of_unreadable hn hd, step_of_unreadable (hnext.trans hn) (hst ▸ hd)]
      rfl
    | ok i =>
      rw [step_of_nextInput_some hn hd, step_of_nextInput_some (hnext.trans hn) (hst ▸ hd)]
      exact exec_sameOutcome ((registerInv_with_script s l).2 hs) (h.with_script l) i

end Sys2Proof
end

section
/-! The fused step of R100 beside the machine: the window as a list of bytes, one event in a resting state, and what
VALIDATE puts out with a sink that is ready. -/

namespace Sys2Proof

open Machine

/-! ## Resting states and their windows -/

theorem restingOf_of_awaitSync {s : State} (hst : s.st = .awaitSync) : restingOf s = some .awaitSync := by
  simp [restingOf, hst]

theorem restingOf_of_accumulate {s : State} (hst : s.st = .accumulate) :
    restingOf s = some (.accumulate (s.buf.toList.take s.cnt.val)) := by
  simp [restingOf, hst]

theorem restingOf_of_halted {s : State} (hst : s.st = .halted) : restingOf s = some (.halted s.haltCause) := by
  simp [restingOf, hst]

/-- A byte set behind the first `n` is the last of the first `n + 1`. -/
theorem take_succ_set {n : Nat} (v : Vector Byte Config.pktLen) (b : Byte) (h : n < Config.pktLen) :
    (v.set n b).toList.take (n + 1) = v.toList.take n ++ [b] := by
  have hlen : n < (v.toList.set n b).length := by simpa using h
  rw [Vector.toList_set, ← List.take_concat_get' _ _ hlen, List.take_set_of_le (Nat.le_refl n),
    List.getElem_set_self]

theorem length_window {s : State} (h : s.cnt.val < Config.pktLen) :
    (s.buf.toList.take s.cnt.val).length = s.cnt.val := by
  rw [List.length_take, Vector.length_toList]
  exact Nat.min_eq_left h.le

theorem packet_eta (p : IngestPacket) : p = #v[p[0], p[1], p[2], p[3], p[4]] := by
  ext i hi
  interval_cases i <;> rfl

/-! ## The fused step, case by case -/

/-- The event that a complete window is reported with (R95, R96). -/
def windowEvent : DecodeResult → Event
  | .ok r => .reading r
  | .err _ => .checksumDrop

/-- The fifth byte: the window is checked within the same step (R100). -/
theorem fusedStep_of_complete (p : IngestPacket) (b : Byte) :
    fusedStep (.accumulate (p.toList.take 4)) (.byte b) =
      some (.awaitSync, windowEvent (decodePacket (p.set 4 b))) := by
  rw [packet_eta p]
  have hset : (#v[p[0], p[1], p[2], p[3], p[4]] : IngestPacket).set 4 b = #v[p[0], p[1], p[2], p[3], b] := rfl
  have htake : (#v[p[0], p[1], p[2], p[3], p[4]] : IngestPacket).toList.take 4 = [p[0], p[1], p[2], p[3]] := rfl
  rw [hset, htake, fusedStep]
  cases decodePacket #v[p[0], p[1], p[2], p[3], b] <;> rfl

/-- Any other byte of a window is appended to it (R100). -/
theorem fusedStep_of_open {bytes : List Byte} (h : bytes.length ≠ 4) (b : Byte) :
    fusedStep (.accumulate bytes) (.byte b) = some (.accumulate (bytes ++ [b]), .none) := by
  rw [fusedStep]
  rintro b0 b1 b2 b3 rfl
  exact h rfl

theorem fusedStep_byte_of_awaitSync (b : Byte) :
    fusedStep .awaitSync (.byte b) =
      if b = Config.sync then some (.accumulate [b], .none) else some (.awaitSync, .none) := rfl

/-- A halted block has no step, so a run from there is over (R99, R101). -/
theorem runEvents_halted (c : HaltCause) (es : List RxEvent) : runEvents (.halted c) es = (.halted c, []) := by
  cases es <;> rfl

/-! ## What steps keep -/

theorem exec_keeps_sinkAlwaysReady {i : Instr} {s t : State} (hs : SinkAlwaysReady s) (h : exec i s = .next t) :
    SinkAlwaysReady t := by
  obtain ⟨hlist, hafter⟩ := hs
  rcases exec_eq_next h with ⟨r, rfl⟩ | ⟨a, b, c, d, -, rfl⟩ | ⟨-, -, rfl⟩ | ⟨b, -, -, -, rfl⟩ |
    ⟨b, hlt, -, -, -, rfl⟩ | ⟨b, hlt, -, -, -, rfl⟩ | ⟨r, -, -, -, rfl⟩ | ⟨e, -, -, -, rfl⟩ |
    ⟨-, -, rfl⟩ | ⟨-, -, rfl⟩ | ⟨-, rfl⟩ | ⟨w, -, -, rfl⟩ | ⟨-, rfl⟩
  pick_goal 7
  · have htail : s.sinkReady.tail = [] := by rw [hlist]; rfl
    rcases deliver_cases r s with hwait | hsent
    · rw [hwait]; exact ⟨htail, hafter⟩
    · rw [hsent]; exact ⟨htail, hafter⟩
  all_goals exact ⟨hlist, hafter⟩

theorem step_keeps_sinkAlwaysReady {s t : State} (hs : SinkAlwaysReady s) (h : step s = .next t) :
    SinkAlwaysReady t := by
  obtain ⟨i, l, hexec, -⟩ := step_next_cases h
  exact exec_keeps_sinkAlwaysReady (s := { s with script := l }) hs hexec

/-- What every step keeps, every run keeps. -/
theorem runSteps_keeps {P : State → Prop} (hstep : ∀ s t, P s → step s = .next t → P t) {n : Nat} {s t : State}
    (hs : P s) (h : runSteps n s = .next t) : P t := by
  induction n generalizing s with
  | zero =>
    cases h
    exact hs
  | succ n ih =>
    simp only [runSteps] at h
    split at h
    · rename_i u hu
      exact ih (hstep s u hs hu) h
    · cases h
    · cases h

theorem runSteps_keeps_registerInv {n : Nat} {s t : State} (hs : RegisterInv s) (h : runSteps n s = .next t) :
    RegisterInv t :=
  runSteps_keeps (P := fun s => RegisterInv s) (fun _ _ => step_keeps_registerInv) hs h

theorem runSteps_keeps_sinkAlwaysReady {n : Nat} {s t : State} (hs : SinkAlwaysReady s)
    (h : runSteps n s = .next t) : SinkAlwaysReady t :=
  runSteps_keeps (P := fun s => SinkAlwaysReady s) (fun _ _ => step_keeps_sinkAlwaysReady) hs h

theorem sinkTakes_of_sinkAlwaysReady {s : State} (h : SinkAlwaysReady s) : sinkTakes s = true := by
  simp [sinkTakes, h.1, h.2]

theorem runSteps_one (s : State) : runSteps 1 s = step s := by
  simp only [runSteps]
  cases step s <;> rfl

theorem runSteps_two {s t u : State} (h1 : step s = .next t) (h2 : step t = .next u) : runSteps 2 s = .next u := by
  rw [runSteps_succ 1 h1, runSteps_one, h2]

/-! ## VALIDATE with a ready sink -/

/-- The window ends, and the outputs are those of its event (R95, R96, R131). -/
theorem exec_validate_of_sink_ready {s : State} (hst : s.st = .validate) (hsink : sinkTakes s = true) :
    ∃ t, exec .validate s = .next t ∧ t.st = .awaitSync ∧ t.evOut = windowEvent (decodePacket s.buf) ∧
      t.trace = s.trace ++ outputsOf (windowEvent (decodePacket s.buf)) := by
  cases hp : decodePacket s.buf with
  | ok r => exact ⟨_, (exec_validate_of_ok hst hp).trans (by rw [deliver_of_takes r s hsink]), rfl, rfl, rfl⟩
  | err e => exact ⟨_, exec_validate_of_err hst hp, rfl, rfl, rfl⟩

/-- Settles O53: what goes out is a function of the window. -/
theorem nothingCarriesOverBetweenWindows : Obligations.NothingCarriesOverBetweenWindows := by
  intro s t hs ht hbuf hsinks hsinkt
  obtain ⟨s', hs', -, hevs, htrs⟩ := exec_validate_of_sink_ready hs hsinks
  obtain ⟨t', ht', -, hevt, htrt⟩ := exec_validate_of_sink_ready ht hsinkt
  rw [← hbuf] at hevt htrt
  exact ⟨_, s', t', hs', ht', htrs, htrt, hevs.trans hevt.symm⟩

/-! ## One event from a resting state -/

/-- The machine takes one or two steps to where the fused step goes, and puts out what it puts out. -/
def ReachesFusedStep (s : State) (q : Resting) (e : RxEvent) (later : List Input) : Prop :=
  ∃ (q' : Resting) (ev : Event) (n : Nat) (t : State), fusedStep q e = some (q', ev) ∧ (n = 1 ∨ n = 2) ∧
    runSteps n s = .next t ∧ restingOf t = some q' ∧ t.trace = s.trace ++ outputsOf ev ∧ t.script = later

theorem reachesFusedStep_of_step {s t : State} {q q' : Resting} {e : RxEvent} {ev : Event} {later : List Input}
    (hfused : fusedStep q e = some (q', ev)) (hstep : step s = .next t) (hq : restingOf t = some q')
    (htrace : t.trace = s.trace ++ outputsOf ev) (hscript : t.script = later) : ReachesFusedStep s q e later :=
  ⟨q', ev, 1, t, hfused, .inl rfl, (runSteps_one s).trans hstep, hq, htrace, hscript⟩

section
variable {s : State} {w : EventWord} {later : List Input}

/-- A byte met while hunting for sync opens a window or is lost (R90, R91). -/
theorem reachesFusedStep_byte_of_awaitSync {b : Byte} (hst : s.st = .awaitSync) (hscript : s.script = .event w :: later)
    (he : eventOf w = some (.byte b)) : ReachesFusedStep s .awaitSync (.byte b) later := by
  by_cases hb : b = Config.sync
  · have hi : decode s.st (.event w) = .ok .rxSync := by simp [decode, decodeEvent, hst, he, hb]
    have hstep := (step_of_reading (.inl hst) hscript hi).trans
      (exec_rxSync_of_awaitSync (s := { s with script := later }) hst)
    refine reachesFusedStep_of_step ((fusedStep_byte_of_awaitSync b).trans (if_pos hb)) hstep ?_
      (List.append_nil _).symm rfl
    rw [restingOf_of_accumulate rfl, hb]
    exact congrArg (some ∘ Resting.accumulate) (take_succ_set s.buf Config.sync (by decide : 0 < Config.pktLen))
  · have hi : decode s.st (.event w) = .ok (.rxSkip b) := by simp [decode, decodeEvent, hst, he, hb]
    have hstep := (step_of_reading (.inl hst) hscript hi).trans
      (exec_rxSkip_of_awaitSync (s := { s with script := later }) hst hb)
    exact reachesFusedStep_of_step ((fusedStep_byte_of_awaitSync b).trans (if_neg hb)) hstep
      (restingOf_of_awaitSync hst) (List.append_nil _).symm rfl

/-- A byte of an open window, its fifth excepted (R92). -/
theorem reachesFusedStep_byte_of_open {b : Byte} (hst : s.st = .accumulate) (hlt : s.cnt.val < Config.pktLen)
    (hopen : s.cnt.val + 1 ≠ Config.pktLen) (hscript : s.script = .event w :: later)
    (he : eventOf w = some (.byte b)) :
    ReachesFusedStep s (.accumulate (s.buf.toList.take s.cnt.val)) (.byte b) later := by
  have hi : decode s.st (.event w) = .ok (.rxData b) := by simp [decode, decodeEvent, hst, he]
  have hstep := (step_of_reading (.inr hst) hscript hi).trans
    (exec_rxData_of_not_last b (s := { s with script := later }) hlt hst hopen)
  have hlen : (s.buf.toList.take s.cnt.val).length ≠ 4 := by
    rw [length_window hlt]
    exact fun h => hopen (congrArg (· + 1) h)
  refine reachesFusedStep_of_step (fusedStep_of_open hlen b) hstep ?_ (List.append_nil _).symm rfl
  refine (restingOf_of_accumulate (s := report .none (storeByte b { s with script := later } hlt)) hst).trans ?_
  exact congrArg (some ∘ Resting.accumulate) (take_succ_set s.buf b hlt)

/-- The fifth byte: RX_DATA completes the window, and VALIDATE, before anything offered in the stream, ends it (R93,
R94). -/
theorem reachesFusedStep_byte_of_last {b : Byte} (hsink : SinkAlwaysReady s) (hst : s.st = .accumulate)
    (hlt : s.cnt.val < Config.pktLen) (hfull : s.cnt.val + 1 = Config.pktLen) (hlater : StreamFirst later)
    (hscript : s.script = .event w :: later) (he : eventOf w = some (.byte b)) :
    ReachesFusedStep s (.accumulate (s.buf.toList.take s.cnt.val)) (.byte b) later := by
  have hi : decode s.st (.event w) = .ok (.rxData b) := by simp [decode, decodeEvent, hst, he]
  have hstep1 := (step_of_reading (.inr hst) hscript hi).trans
    (exec_rxData_of_last b (s := { s with script := later }) hlt hst hfull)
  obtain ⟨t, hexec, htst, -, httrace⟩ := exec_validate_of_sink_ready
    (s := report .none (goTo .validate (storeByte b { s with script := later } hlt))) rfl
    (sinkTakes_of_sinkAlwaysReady hsink)
  have hstep2 := (step_of_validate rfl hlater).trans hexec
  have hcnt : s.cnt.val = 4 := Nat.succ.inj hfull
  have hwindow : fusedStep (.accumulate (s.buf.toList.take s.cnt.val)) (.byte b) =
      some (.awaitSync, windowEvent (decodePacket (s.buf.set s.cnt.val b hlt))) := by
    simp only [hcnt]
    exact fusedStep_of_complete s.buf b
  exact ⟨_, _, 2, t, hwindow, .inr rfl, runSteps_two hstep1 hstep2, restingOf_of_awaitSync htst, httrace,
    script_of_exec_validate hexec⟩

/-- End of stream from either resting state that reads (R97). -/
theorem reachesFusedStep_eos {q : Resting} (hst : s.st = .awaitSync ∨ s.st = .accumulate)
    (hfused : fusedStep q .eos = some (.halted .streamClosed, .streamClosed))
    (hscript : s.script = .event w :: later) (he : eventOf w = some .eos) : ReachesFusedStep s q .eos later := by
  have hi : decode s.st (.event w) = .ok .rxEos := by rcases hst with hst | hst <;> simp [decode, decodeEvent, hst, he]
  exact reachesFusedStep_of_step hfused
    ((step_of_reading hst hscript hi).trans (exec_rxEos_of_reading (s := { s with script := later }) hst)) rfl rfl rfl

/-- A transport error from either (R98). -/
theorem reachesFusedStep_err {q : Resting} (hst : s.st = .awaitSync ∨ s.st = .accumulate)
    (hfused : fusedStep q .err = some (.halted .transportError, .transportError))
    (hscript : s.script = .event w :: later) (he : eventOf w = some .err) : ReachesFusedStep s q .err later := by
  have hi : decode s.st (.event w) = .ok .rxErr := by rcases hst with hst | hst <;> simp [decode, decodeEvent, hst, he]
  exact reachesFusedStep_of_step hfused
    ((step_of_reading hst hscript hi).trans (exec_rxErr_of_reading (s := { s with script := later }) hst)) rfl rfl rfl

/-- One event of any kind from either resting state that reads (R100). -/
theorem reachesFusedStep_of_reading {e : RxEvent} {q : Resting} (hs : RegisterInv s) (hsink : SinkAlwaysReady s)
    (hst : s.st = .awaitSync ∨ s.st = .accumulate) (hscript : s.script = .event w :: later)
    (hlater : StreamFirst later) (he : eventOf w = some e) (hq : restingOf s = some q) :
    ReachesFusedStep s q e later := by
  rcases id hst with hawait | hacc
  · obtain rfl : .awaitSync = q := Option.some.inj ((restingOf_of_awaitSync hawait).symm.trans hq)
    cases e with
    | byte b => exact reachesFusedStep_byte_of_awaitSync hawait hscript he
    | eos => exact reachesFusedStep_eos hst rfl hscript he
    | err => exact reachesFusedStep_err hst rfl hscript he
  · obtain rfl := Option.some.inj ((restingOf_of_accumulate hacc).symm.trans hq)
    cases e with
    | byte b =>
      obtain ⟨-, hlt, -, -⟩ := (registerInv_iff_of_accumulate hacc).1 hs
      by_cases hfull : s.cnt.val + 1 = Config.pktLen
      · exact reachesFusedStep_byte_of_last hsink hacc hlt hfull hlater hscript he
      · exact reachesFusedStep_byte_of_open hacc hlt hfull hscript he
    | eos => exact reachesFusedStep_eos hst (by rw [fusedStep]) hscript he
    | err => exact reachesFusedStep_err hst (by rw [fusedStep]) hscript he

end

/-- Settles O55: the steps are those above; R18's table and the sink's readiness are kept by every run. -/
theorem fusedStepAgreesWithTheMachine : Obligations.FusedStepAgreesWithTheMachine := by
  intro s w e later q hs hsink hst hscript hlater he hq
  obtain ⟨q', ev, n, t, hfused, hn, hrun, hq', htrace, hlater'⟩ :=
    reachesFusedStep_of_reading hs hsink hst hscript hlater he hq
  exact ⟨q', ev, n, t, hfused, hn, hrun, hq', htrace, hlater', runSteps_keeps_sinkAlwaysReady hsink hrun,
    runSteps_keeps_registerInv hs hrun⟩

end Sys2Proof
end

section
/-! Whole runs: the fold of the fused step (R101, R138), the stream cut into reads, and garbage before a packet. -/

namespace Sys2Proof

open Machine

/-! ## The run over a sequence of events -/

/-- An event halts the fused form exactly when it is an EOS or an ERR (R97, R98). -/
theorem fusedStep_eq_some {q q' : Resting} {e : RxEvent} {ev : Event} (h : fusedStep q e = some (q', ev)) :
    ((∃ b, e = .byte b) ∧ ∀ c, q' ≠ .halted c) ∨ ((e = .eos ∨ e = .err) ∧ ∃ c, q' = .halted c) := by
  unfold fusedStep at h
  split at h
  · split_ifs at h <;> cases h <;> exact .inl ⟨⟨_, rfl⟩, fun _ => nofun⟩
  · split at h <;> cases h <;> exact .inl ⟨⟨_, rfl⟩, fun _ => nofun⟩
  · cases h
    exact .inl ⟨⟨_, rfl⟩, fun _ => nofun⟩
  · cases h
    exact .inr ⟨.inl rfl, _, rfl⟩
  · cases h
    exact .inr ⟨.inl rfl, _, rfl⟩
  · cases h
    exact .inr ⟨.inr rfl, _, rfl⟩
  · cases h
    exact .inr ⟨.inr rfl, _, rfl⟩
  · cases h

theorem restingOf_eq_halted_iff (s : State) : (∃ c, restingOf s = some (.halted c)) ↔ s.st = .halted := by
  unfold restingOf
  cases s.st <;> simp

/-- The events that no step takes, from a state that stands for a resting state of the fused form. -/
def leftOver (s : State) (es : List RxEvent) : List RxEvent :=
  if s.st = .halted then es else afterHalt es

/-- What the machine leaves behind one event is what it leaves of the whole sequence. -/
theorem leftOver_of_fusedStep {t : State} {q q' : Resting} {e : RxEvent} {ev : Event}
    (h : fusedStep q e = some (q', ev)) (hq : restingOf t = some q') (es : List RxEvent) :
    leftOver t es = afterHalt (e :: es) := by
  rcases fusedStep_eq_some h with ⟨⟨b, rfl⟩, hgoes⟩ | ⟨he, c, rfl⟩
  · have hst : t.st ≠ .halted := by
      rw [ne_eq, ← restingOf_eq_halted_iff]
      rintro ⟨c, hc⟩
      exact hgoes c (Option.some.inj (hq.symm.trans hc))
    exact if_neg hst
  · have hst : t.st = .halted := (restingOf_eq_halted_iff t).1 ⟨c, hq⟩
    rw [leftOver, if_pos hst]
    rcases he with rfl | rfl <;> rfl

theorem reading_of_restingOf {s : State} {q : Resting} (hq : restingOf s = some q) (hst : s.st ≠ .halted) :
    s.st = .awaitSync ∨ s.st = .accumulate := by
  cases h : s.st with
  | awaitSync => exact .inl rfl
  | accumulate => exact .inr rfl
  | validate => cases hq.symm.trans ((restingOf_eq_none_iff s).2 h)
  | halted => exact absurd h hst

/-- The machine runs to the end of what it can take, to the state and with the outputs of the fold (R101, R138). -/
theorem runSteps_eventInputs {es : List RxEvent} {s : State} {q : Resting} (hs : RegisterInv s)
    (hsink : SinkAlwaysReady s) (hq : restingOf s = some q) (hscript : s.script = eventInputs es) :
    ∃ n t, runSteps n s = .next t ∧ Settled t ∧ t.script = eventInputs (leftOver s es) ∧
      restingOf t = some (runEvents q es).1 ∧ t.trace = s.trace ++ (runEvents q es).2 := by
  induction es generalizing s q with
  | nil =>
    have hleft : leftOver s [] = [] := ite_self _
    refine ⟨0, s, rfl, ?_, by rw [hleft, hscript], hq, (List.append_nil _).symm⟩
    by_cases hst : s.st = .halted
    · exact .inl hst
    · exact .inr ⟨reading_of_restingOf hq hst, hscript⟩
  | cons e es ih =>
    by_cases hst : s.st = .halted
    · obtain rfl := Option.some.inj ((restingOf_of_halted hst).symm.trans hq)
      refine ⟨0, s, rfl, .inl hst, by rw [leftOver, if_pos hst, hscript], ?_, ?_⟩
      · rw [runEvents_halted]
        exact hq
      · rw [runEvents_halted]
        exact (List.append_nil _).symm
    · obtain ⟨q', ev, n, t, hfused, -, hrun, hq', htrace, hscript'⟩ :=
        reachesFusedStep_of_reading hs hsink (reading_of_restingOf hq hst) hscript (streamFirst_eventInputs es)
          (eventOf_eventWord e) hq
      obtain ⟨m, u, hrun', hsettled, hleft, hq'', htrace'⟩ :=
        ih (runSteps_keeps_registerInv hs hrun) (runSteps_keeps_sinkAlwaysReady hsink hrun) hq' hscript'
      refine ⟨n + m, u, (runSteps_add hrun).trans hrun', hsettled, ?_, ?_, ?_⟩
      · rw [hleft, leftOver_of_fusedStep hfused hq' es, leftOver, if_neg hst]
      · simpa only [runEvents, hfused] using hq''
      · simp only [runEvents, hfused, htrace', htrace, List.append_assoc]

/-- Settles O56: the run above; from AWAIT_SYNC with nothing put out yet its fold is `gateway`. -/
theorem machineRunIsTheGatewayFunction : Obligations.MachineRunIsTheGatewayFunction := by
  intro es s q hs hsink hq hscript
  obtain ⟨n, t, hrun, hsettled, hleft, hq', htrace⟩ := runSteps_eventInputs hs hsink hq hscript
  refine ⟨n, t, hrun, hsettled, hleft, hq', htrace, fun hst hempty => ?_⟩
  obtain rfl := Option.some.inj ((restingOf_of_awaitSync hst).symm.trans hq)
  refine ⟨?_, hq'⟩
  rw [htrace, hempty]
  rfl

/-! ## The stream cut into reads -/

/-- The state with more offered after everything that stands offered. -/
def offerLater (l : List Input) (s : State) : State :=
  { s with script := s.script ++ l }

theorem firstAside_append {xs rest : List Input} {x : Input} (h : firstAside xs = some (x, rest)) (l : List Input) :
    firstAside (xs ++ l) = some (x, rest ++ l) := by
  induction xs generalizing rest with
  | nil => cases h
  | cons y ys ih =>
    simp only [List.cons_append, firstAside] at h ⊢
    split_ifs at h ⊢ with hy
    · split at h
      · rename_i z others hz
        cases h
        rw [ih hz]
        rfl
      · cases h
    · cases h
      rfl

/-- In HALTED what stands in the stream is passed over (R99, log 1). -/
theorem nextInput_eq_firstAside {s : State} (hst : s.st = .halted) : nextInput s = firstAside s.script := by
  cases hscript : s.script with
  | nil => exact nextInput_nil hscript
  | cons x rest => simp only [nextInput, hst, hscript]

/-- What can be taken is taken whatever is offered later. -/
theorem nextInput_offerLater {s : State} {x : Input} {rest : List Input} (h : nextInput s = some (x, rest))
    (l : List Input) : nextInput (offerLater l s) = some (x, rest ++ l) := by
  cases hscript : s.script with
  | nil => cases (nextInput_nil hscript).symm.trans h
  | cons y ys =>
    have hscript' : (offerLater l s).script = y :: (ys ++ l) := by rw [offerLater, hscript]; rfl
    cases hst : s.st with
    | awaitSync =>
      cases (nextInput_of_reading (.inl hst) hscript).symm.trans h
      exact nextInput_of_reading (.inl hst) hscript'
    | accumulate =>
      cases (nextInput_of_reading (.inr hst) hscript).symm.trans h
      exact nextInput_of_reading (.inr hst) hscript'
    | validate =>
      have hst' : (offerLater l s).st = .validate := hst
      simp only [nextInput, hst, hscript] at h
      simp only [nextInput, hst', hscript']
      split_ifs at h ⊢ with hy
      cases h
      rfl
    | halted =>
      rw [nextInput_eq_firstAside hst] at h
      rw [nextInput_eq_firstAside (s := offerLater l s) hst]
      exact firstAside_append h l

/-- VALIDATE takes nothing only where nothing, or the stream, stands first (R99). -/
theorem streamFirst_of_nextInput_none {s : State} (hst : s.st = .validate) (h : nextInput s = none) :
    StreamFirst s.script := by
  cases hscript : s.script with
  | nil => rfl
  | cons x rest =>
    simp only [nextInput, hst, hscript] at h
    split_ifs at h with hx
    exact hx

theorem streamFirst_append {xs l : List Input} (hxs : StreamFirst xs) (hl : StreamFirst l) : StreamFirst (xs ++ l) := by
  cases xs with
  | nil => exact hl
  | cons x xs => exact hxs

theorem offerChunk_offerLater (p : IngestPacket) (s : State) (l : List Input) :
    offerChunk p (offerLater l s) = offerLater l (offerChunk p s) :=
  congrArg (fun xs => { s with script := xs }) (List.append_assoc (packetEvents p) s.script l).symm

theorem deliver_offerLater (r : Reading) (s : State) (l : List Input) :
    deliver r (offerLater l s) = offerLater l (deliver r s) := by
  cases h : sinkTakes s with
  | true => rw [deliver_of_takes r s h, deliver_of_takes r (offerLater l s) h]; rfl
  | false => rw [deliver_of_not_takes r s h, deliver_of_not_takes r (offerLater l s) h]; rfl

/-- An operation does not read the script, and what it puts there stands before what is offered later. -/
theorem exec_offerLater {i : Instr} {s t : State} (h : exec i s = .next t) (l : List Input) :
    exec i (offerLater l s) = .next (offerLater l t) := by
  have hen : i ≠ .rxNone → enabledIn s.st i = true := fun hi => by
    by_contra hnot
    cases (exec_of_not_enabled (by simpa using hnot) hi).symm.trans h
  cases i
  case ingestPacket a b c d =>
    cases h
    rw [exec_ingestPacket, offerChunk_offerLater]
  case rxSync =>
    have hst : s.st = .awaitSync := by simpa [enabledIn] using hen
    cases (exec_rxSync_of_awaitSync hst).symm.trans h
    exact exec_rxSync_of_awaitSync (s := offerLater l s) hst
  case rxSkip b =>
    have hst : s.st = .awaitSync := by simpa [enabledIn] using hen
    have hb : b ≠ Config.sync := by
      rintro rfl
      cases (exec_rxSkip_sync s).symm.trans h
    cases (exec_rxSkip_of_awaitSync hst hb).symm.trans h
    exact exec_rxSkip_of_awaitSync (s := offerLater l s) hst hb
  case rxData b =>
    have hst : s.st = .accumulate := by simpa [enabledIn] using hen
    by_cases hlt : s.cnt.val < Config.pktLen
    · cases (exec_rxData_of_accumulate b hlt hst).symm.trans h
      exact exec_rxData_of_accumulate b (s := offerLater l s) hlt hst
    · simp [exec, execRxData, hst, hlt] at h
  case validate =>
    have hst : s.st = .validate := by simpa [enabledIn] using hen
    cases hp : decodePacket s.buf with
    | ok r =>
      cases (exec_validate_of_ok hst hp).symm.trans h
      rw [exec_validate_of_ok (s := offerLater l s) hst hp, deliver_offerLater]
    | err e =>
      cases (exec_validate_of_err hst hp).symm.trans h
      exact exec_validate_of_err (s := offerLater l s) hst hp
  case rxEos =>
    have hst : s.st = .awaitSync ∨ s.st = .accumulate := by simpa [enabledIn] using hen
    cases (exec_rxEos_of_reading hst).symm.trans h
    exact exec_rxEos_of_reading (s := offerLater l s) hst
  case rxErr =>
    have hst : s.st = .awaitSync ∨ s.st = .accumulate := by simpa [enabledIn] using hen
    cases (exec_rxErr_of_reading hst).symm.trans h
    exact exec_rxErr_of_reading (s := offerLater l s) hst
  case rxRefused w =>
    have hst : s.st = .validate ∨ s.st = .halted := by simpa [enabledIn] using hen
    rcases hst with hst | hst
    · cases (exec_rxRefused_of_validate w hst).symm.trans h
      exact exec_rxRefused_of_validate w (s := offerLater l s) hst
    · cases (exec_rxRefused_of_halted w hst).symm.trans h
  all_goals
    cases h
    rfl

/-- A step goes the same way with more offered later, unless it waits for input (R101). -/
theorem step_offerLater {s t : State} {l : List Input} (hl : StreamFirst l) (h : step s = .next t) :
    t = s ∨ step (offerLater l s) = .next (offerLater l t) := by
  cases hn : nextInput s with
  | some taken =>
    obtain ⟨x, rest⟩ := taken
    cases hd : decode s.st x with
    | error e => cases (step_of_unreadable hn hd).symm.trans h
    | ok i =>
      rw [step_of_nextInput_some hn hd] at h
      rw [step_of_nextInput_some (nextInput_offerLater hn l) hd]
      exact .inr (exec_offerLater h l)
  | none =>
    rw [step_of_nextInput_none hn] at h
    cases hst : s.st with
    | awaitSync =>
      simp only [idleInstr, hst, exec_rxNone, Host.Outcome.next.injEq] at h
      exact .inl h.symm
    | accumulate =>
      simp only [idleInstr, hst, exec_rxNone, Host.Outcome.next.injEq] at h
      exact .inl h.symm
    | validate =>
      simp only [idleInstr, hst] at h
      rw [step_of_validate (s := offerLater l s) hst (streamFirst_append (streamFirst_of_nextInput_none hst hn) hl)]
      exact .inr (exec_offerLater h l)
    | halted =>
      simp only [idleInstr, hst] at h
      cases (exec_rxRefused_of_halted _ hst).symm.trans h

/-- A run goes the same way with more offered later, the waiting left out. -/
theorem runSteps_offerLater {n : Nat} {s t : State} {l : List Input} (hl : StreamFirst l)
    (h : runSteps n s = .next t) : ∃ k, k ≤ n ∧ runSteps k (offerLater l s) = .next (offerLater l t) := by
  induction n generalizing s with
  | zero =>
    cases h
    exact ⟨0, le_rfl, rfl⟩
  | succ n ih =>
    simp only [runSteps] at h
    split at h
    · rename_i u hu
      obtain ⟨k, hk, hrun⟩ := ih h
      rcases step_offerLater hl hu with rfl | hgoes
      · exact ⟨k, by omega, hrun⟩
      · exact ⟨k + 1, by omega, (runSteps_succ k hgoes).trans hrun⟩
    · cases h
    · cases h

/-- Settles O57: each read runs to its end, since each ends in a resting state; and the run over both reads goes the way
of the first, the waiting left out, and then of the second. -/
theorem chunkingDoesNotMatter : Obligations.ChunkingDoesNotMatter := by
  intro c1 c2 s hs hsink hst hscript
  constructor
  · obtain ⟨q, hq⟩ := Option.ne_none_iff_exists'.1 (mt (restingOf_eq_none_iff s).1 hst)
    obtain ⟨n, t, hrun, hsettled, hleft, hq', -⟩ := runSteps_eventInputs hs hsink hq hscript
    have hscript' : (offerLater (eventInputs c2) t).script = eventInputs (leftOver s c1 ++ c2) := by
      rw [eventInputs_append, ← hleft]
      rfl
    obtain ⟨m, u, hrun', hsettled', -⟩ := runSteps_eventInputs (s := offerLater (eventInputs c2) t)
      ((registerInv_with_script t _).2 (runSteps_keeps_registerInv hs hrun))
      (show SinkAlwaysReady t from runSteps_keeps_sinkAlwaysReady hsink hrun) hq' hscript'
    exact ⟨n, m, t, u, hrun, hsettled, hrun', hsettled'⟩
  · intro n m t u hrun hrun'
    obtain ⟨k, hk, hboth⟩ := runSteps_offerLater (streamFirst_eventInputs c2) hrun
    have hoffered : offerLater (eventInputs c2) s = { s with script := eventInputs (c1 ++ c2) } := by
      rw [eventInputs_append, ← hscript]
      rfl
    rw [hoffered] at hboth
    exact ⟨k + m, by omega, (runSteps_add hboth).trans hrun'⟩

/-! ## Waiting -/

/-- An idle word is taken, and nothing else happens (R58, R104). -/
theorem step_idleWord {s : State} {w : EventWord} {rest : List Input} (hst : s.st = .awaitSync ∨ s.st = .accumulate)
    (hw : w &&& 0x700#11 = 0x000#11) (hscript : s.script = .event w :: rest) :
    step s = .next { s with script := rest } := by
  have hi : decode s.st (.event w) = .ok .rxNone := by
    rcases hst with hst | hst <;> simp [decode, decodeEvent, hst, eventOf_eq_none hw]
  exact step_of_reading hst hscript hi

/-- Settles O52: one idle word after another. -/
theorem waitingNeverTimesOut : Obligations.WaitingNeverTimesOut := by
  intro n w rest s hst hw hscript
  induction n generalizing s with
  | zero =>
    have hrest : s.script = rest := hscript
    rw [← hrest]
    rfl
  | succ n ih => exact (runSteps_succ n (step_idleWord hst hw hscript)).trans (ih _ hst rfl)

/-! ## Garbage, then a packet -/

/-- Garbage leaves nothing behind but the event output NONE (R91). -/
theorem runSteps_garbage {garbage : List Byte} {s : State} {rest : List Input}
    (hne : ∀ b ∈ garbage, b ≠ Config.sync) (hst : s.st = .awaitSync)
    (hscript : s.script = eventInputs (garbage.map .byte) ++ rest) :
    ∃ ev, runSteps garbage.length s = .next { s with evOut := ev, script := rest } := by
  induction garbage generalizing s with
  | nil =>
    have hrest : s.script = rest := hscript
    refine ⟨s.evOut, ?_⟩
    rw [← hrest]
    rfl
  | cons b bs ih =>
    have hstep := (otherByteIsSkipped b s hst (hne b (by simp))).2 _ hscript
    obtain ⟨ev, hrun⟩ := ih (s := { s with evOut := .none, script := eventInputs (bs.map .byte) ++ rest })
      (fun c hc => hne c (by simp [hc])) hst rfl
    exact ⟨ev, (runSteps_succ bs.length hstep).trans hrun⟩

/-- Five stores fill the whole buffer. -/
theorem set_all_bytes (p : IngestPacket) (b0 b1 b2 b3 b4 : Byte) :
    ((((p.set 0 b0).set 1 b1).set 2 b2).set 3 b3).set 4 b4 = #v[b0, b1, b2, b3, b4] := by
  ext i hi
  interval_cases i <;> simp

/-- The state with a window of `n` bytes open. -/
def openWindow (s : State) (n : Fin (Config.pktLen + 1)) (buf : Vector Byte Config.pktLen) (script : List Input) :
    State :=
  { s with st := .accumulate, cnt := n, buf := buf, evOut := .none, script := script }

theorem step_openWindow (s : State) {n : Fin (Config.pktLen + 1)} (hopen : n.val + 1 < Config.pktLen)
    (buf : Vector Byte Config.pktLen) (b : Byte) (rest : List Input) :
    step (openWindow s n buf (.event (eventWord (.byte b)) :: rest)) =
      .next (openWindow s (n + 1) (buf.set n.val b) rest) := by
  have hlt : n.val < Config.pktLen := Nat.lt_of_succ_lt hopen
  have hcnt : n + 1 = ⟨n.val + 1, Nat.succ_lt_succ hlt⟩ := cnt_add_one (s := openWindow s n buf rest) hlt
  rw [hcnt]
  exact (step_of_reading (.inr rfl) rfl (decode_byte_of_accumulate b rfl)).trans
    (exec_rxData_of_not_last b (s := openWindow s n buf rest) hlt rfl (Nat.ne_of_lt hopen))

/-- A packet's five bytes fill the window, whatever `buf` held, and complete it (R90, R92, R93). -/
theorem runSteps_five_bytes {s : State} {b1 b2 b3 b4 : Byte} {rest : List Input} (hst : s.st = .awaitSync)
    (hscript : s.script = eventInputs ([Config.sync, b1, b2, b3, b4].map .byte) ++ rest) :
    runSteps 5 s = .next
      { s with
        st := .validate
        cnt := 5
        buf := #v[Config.sync, b1, b2, b3, b4]
        evOut := .none
        script := rest } := by
  rw [← set_all_bytes s.buf]
  have h0 := (syncByteOpensAWindow s hst).2 _ hscript
  have h1 := step_openWindow s (n := 1) (by decide) (s.buf.set 0 Config.sync) b1
    (eventInputs ([b2, b3, b4].map .byte) ++ rest)
  have h2 := step_openWindow s (n := 2) (by decide) ((s.buf.set 0 Config.sync).set 1 b1) b2
    (eventInputs ([b3, b4].map .byte) ++ rest)
  have h3 := step_openWindow s (n := 3) (by decide) (((s.buf.set 0 Config.sync).set 1 b1).set 2 b2) b3
    (eventInputs ([b4].map .byte) ++ rest)
  have h4 := (dataByteIsStoredAtCnt b4
    (openWindow s 4 ((((s.buf.set 0 Config.sync).set 1 b1).set 2 b2).set 3 b3) (.event (eventWord (.byte b4)) :: rest))
    (show (4 : Fin (Config.pktLen + 1)).val < Config.pktLen by decide) rfl).2 rest rfl
  calc runSteps 5 s
      = runSteps 4 _ := runSteps_succ 4 h0
    _ = runSteps 3 _ := runSteps_succ 3 h1
    _ = runSteps 2 _ := runSteps_succ 2 h2
    _ = runSteps 1 _ := runSteps_succ 1 h3
    _ = _ := (runSteps_one _).trans h4

/-- VALIDATE over a packet that ENCODE wrote, before anything offered in the stream (R74, R95). -/
theorem step_validate_of_encoded {s : State} {r : Reading} (hst : s.st = .validate) (hsink : SinkAlwaysReady s)
    (hfirst : StreamFirst s.script) (hbuf : s.buf = encodeReading r) :
    step s = .next
      { s with
        st := .awaitSync
        cnt := 0
        evOut := .reading r
        trace := s.trace ++ [.event (.reading r), .frame (build r (classify r.voltageMv r.tempC))] } := by
  have hp : decodePacket s.buf = .ok r := by rw [hbuf, decodePacket_encodeReading]
  have hlist : s.sinkReady.tail = s.sinkReady := by rw [hsink.1]; rfl
  rw [step_of_validate hst hfirst, exec_validate_of_ok hst hp,
    deliver_of_takes r s (sinkTakes_of_sinkAlwaysReady hsink), hlist]

/-- Settles O58: the garbage goes, the packet fills the window, and VALIDATE decodes what ENCODE wrote (R74). -/
theorem garbageThenPacketYieldsOneFrame : Obligations.GarbageThenPacketYieldsOneFrame := by
  intro garbage v t later s hne hst hsink hlater hscript
  obtain ⟨ev, hgarbage⟩ := runSteps_garbage hne hst hscript
  have hfive := runSteps_five_bytes
    (s := { s with
            evOut := ev
            script := eventInputs ((encodeReading ⟨v, t⟩).toList.map .byte) ++ later })
    (b1 := (split16 v).1) (b2 := (split16 v).2) (b3 := t)
    (b4 := checksum Config.sync (split16 v).1 (split16 v).2 t) (rest := later) hst rfl
  have hvalidate := step_validate_of_encoded
    (s := { s with st := .validate, cnt := 5, buf := encodeReading ⟨v, t⟩, evOut := .none, script := later })
    rfl hsink hlater rfl
  calc runSteps (garbage.length + (5 + 1)) s
      = runSteps (5 + 1) _ := runSteps_add hgarbage
    _ = runSteps 1 _ := runSteps_add hfive
    _ = _ := (runSteps_one _).trans hvalidate

end Sys2Proof
end

section
/-! The units and the formats: what the codec's check detects (R75, R84), what a built frame carries (R122, R53), and
what each call and each format word records (R23, R52, R54, R66). -/

namespace Sys2Proof

open Machine

/-! ## The answers of the units -/

@[simp] theorem exec_serialize (id : Word32) (n : Byte) (p : Vector Byte Config.payloadLen) (s : State) :
    exec (.serialize id n p) s = .next (answer (.serialized (serialize ⟨id, n, p⟩ Config.egressIdOrder)) s) := rfl

@[simp] theorem exec_egressFrameBig (h l t : Byte) (c : StatusCode) (s : State) :
    exec (.egressFrameBig h l t c) s = .next (answer (.frameRead .big (frameOf h l t c)) s) := rfl

@[simp] theorem exec_egressFrameLittle (h l t : Byte) (c : StatusCode) (s : State) :
    exec (.egressFrameLittle h l t c) s = .next (answer (.frameRead .little (frameOf h l t c)) s) := rfl

@[simp] theorem exec_tagOk (s : State) : exec .tagOk s = .next (answer (.tagRead .ok) s) := rfl

@[simp] theorem exec_tagWarnLowVolt (s : State) :
    exec .tagWarnLowVolt s = .next (answer (.tagRead .warnLowVolt) s) := rfl

@[simp] theorem exec_tagCritTemp (s : State) : exec .tagCritTemp s = .next (answer (.tagRead .critTemp) s) := rfl

/-- Settles O10: each call's own equation names the result before it sees the state. -/
theorem unitCallsDependOnOperandsAlone : Obligations.UnitCallsDependOnOperandsAlone := by
  intro i hi
  cases i with
  | egressFrameBig h l t c => exact ⟨_, exec_egressFrameBig h l t c⟩
  | egressFrameLittle h l t c => exact ⟨_, exec_egressFrameLittle h l t c⟩
  | tagOk => exact ⟨_, exec_tagOk⟩
  | tagWarnLowVolt => exact ⟨_, exec_tagWarnLowVolt⟩
  | tagCritTemp => exact ⟨_, exec_tagCritTemp⟩
  | checksum b0 b1 b2 b3 => exact ⟨_, exec_checksum b0 b1 b2 b3⟩
  | split16 v => exact ⟨_, exec_split16 v⟩
  | encode v t => exact ⟨_, exec_encode v t⟩
  | decode p0 p1 p2 p3 p4 => exact ⟨_, exec_decode p0 p1 p2 p3 p4⟩
  | classify v t => exact ⟨_, exec_classify v t⟩
  | build v t c => exact ⟨_, exec_build v t c⟩
  | serialize id n p => exact ⟨_, exec_serialize id n p⟩
  | _ => cases hi

/-! ## What the codec's check detects -/

/-- DECODE of a word that begins with the sync byte: the checksum alone decides (R80). -/
theorem decodePacket_of_sync (h l t c : Byte) :
    decodePacket #v[Config.sync, h, l, t, c] =
      if Config.sync + h + l + t = c then .ok ⟨h ++ l, t⟩ else .err .checksumMismatch := by
  rw [← checksum_eq_add, ← assemble16_eq_append]
  split_ifs with hsum
  · exact (decodePacket_eq_ok_iff _ _).2 ⟨rfl, hsum, rfl⟩
  · exact decodePacket_of_checksum_ne rfl hsum

/-- The packet of a Reading with its checksum written as a sum (R72). -/
theorem encodeReading_eq_add (r : Reading) :
    encodeReading r = #v[Config.sync, (split16 r.voltageMv).1, (split16 r.voltageMv).2, r.tempC,
      Config.sync + (split16 r.voltageMv).1 + (split16 r.voltageMv).2 + r.tempC] := by
  rw [encodeReading_eq, checksum_eq_add]

/-- The packet that a decoded Reading is encoded to is the word it was decoded from (R75). -/
theorem encodeReading_of_decodePacket {p : IngestPacket} {r : Reading} (h : decodePacket p = .ok r) :
    encodeReading r = p := by
  obtain ⟨hsync, hsum, rfl⟩ := (decodePacket_eq_ok_iff p r).1 h
  rw [encodeReading_eq, split16_assemble16_fst, split16_assemble16_snd, ← hsync, hsum]
  exact (packet_eta p).symm

/-- Settles O12: a word that decodes has its Reading's three bytes and their checksum; and those three bytes give the
Reading back. -/
theorem encodeIsTheOnlyPreimage : Obligations.EncodeIsTheOnlyPreimage := by
  refine ⟨fun p r h => encodeReading_of_decodePacket h, fun r r' hne => ?_⟩
  by_contra hsame
  push Not at hsame
  obtain ⟨hhi, hlo, htemp⟩ := hsame
  have hhi' : (split16 r.voltageMv).1 = (split16 r'.voltageMv).1 := hhi
  have hlo' : (split16 r.voltageMv).2 = (split16 r'.voltageMv).2 := hlo
  have hvolt : r.voltageMv = r'.voltageMv := by
    rw [← assemble16_split16 r.voltageMv, hhi', hlo', assemble16_split16]
  apply hne
  cases r
  cases r'
  exact congrArg₂ Reading.mk hvolt htemp

/-- Settles O13: another byte 0 fails the sync check, and another of bytes 1 to 4 moves one side of the sum alone. -/
theorem singleByteChangeIsDetected : Obligations.SingleByteChangeIsDetected := by
  intro r i x hx
  rw [encodeReading_eq_add] at hx ⊢
  generalize (split16 r.voltageMv).1 = h at hx ⊢
  generalize (split16 r.voltageMv).2 = l at hx ⊢
  generalize r.tempC = t at hx ⊢
  match i with
  | 0 => exact decodePacket_of_sync_ne hx
  | 1 =>
    have hne : Config.sync + x + l + t ≠ Config.sync + h + l + t := by simpa using hx
    exact (decodePacket_of_sync x l t _).trans (if_neg hne)
  | 2 =>
    have hne : Config.sync + h + x + t ≠ Config.sync + h + l + t := by simpa using hx
    exact (decodePacket_of_sync h x t _).trans (if_neg hne)
  | 3 =>
    have hne : Config.sync + h + l + x ≠ Config.sync + h + l + t := by simpa using hx
    exact (decodePacket_of_sync h l x _).trans (if_neg hne)
  | 4 => exact (decodePacket_of_sync h l t x).trans (if_neg (Ne.symm hx))

/-- Beside one sum that comes out right, another does when its bytes 1 to 3 less byte 4 come to the same. -/
theorem sum_eq_iff_of_sum_eq {h l t c : Byte} (hsum : Config.sync + h + l + t = c) (h' l' t' c' : Byte) :
    Config.sync + h' + l' + t' = c' ↔ h' + l' + t' - c' = h + l + t - c := by
  constructor
  · intro hsum'
    linear_combination hsum' - hsum
  · intro hdiff
    linear_combination hdiff + hsum

/-- Settles O14: the checksum sees the sum of bytes 1 to 3 less byte 4, which exchanges and a moved amount keep. -/
theorem cancellingChangesAreAccepted : Obligations.CancellingChangesAreAccepted := by
  intro h l t c r hr
  have hsum : Config.sync + h + l + t = c := by
    by_contra hne
    cases hr.symm.trans ((decodePacket_of_sync h l t c).trans (if_neg hne))
  have hall : ∀ h' l' t' c' : Byte, decodePacket #v[0xAA#8, h', l', t', c'] =
      if h' + l' + t' - c' = h + l + t - c then .ok ⟨h' ++ l', t'⟩ else .err .checksumMismatch := fun h' l' t' c' => by
    simp only [← sum_eq_iff_of_sum_eq hsum]
    exact decodePacket_of_sync h' l' t' c'
  refine ⟨hall, ?_, ?_, ?_, fun d => ?_⟩
  · exact (hall l h t c).trans (if_pos (by ring))
  · exact (hall h t l c).trans (if_pos (by ring))
  · exact (hall t l h c).trans (if_pos (by ring))
  · exact (hall (h + d) (l - d) t c).trans (if_pos (by ring))

/-! ## What a frame carries -/

/-- Settles O17: BUILD splits the voltage that DECODE assembled. -/
theorem payloadIsTheValidatedBytes : Obligations.PayloadIsTheValidatedBytes := by
  intro p r c h
  obtain ⟨-, -, rfl⟩ := (decodePacket_eq_ok_iff p r).1 h
  exact ⟨split16_assemble16_fst _ _, split16_assemble16_snd _ _, rfl⟩

/-- The identifier in the order asked for, the length, the payload, byte by byte (R53, R125). -/
theorem serialize_eq (id : Word32) (n : Byte) (p : Vector Byte Config.payloadLen) (order : IdOrder) :
    serialize ⟨id, n, p⟩ order = match order with
      | .big => #v[id.extractLsb' 24 8, id.extractLsb' 16 8, id.extractLsb' 8 8, id.extractLsb' 0 8, n,
          p[0], p[1], p[2], p[3], p[4], p[5], p[6], p[7]]
      | .little => #v[id.extractLsb' 0 8, id.extractLsb' 8 8, id.extractLsb' 16 8, id.extractLsb' 24 8, n,
          p[0], p[1], p[2], p[3], p[4], p[5], p[6], p[7]] := by
  conv_lhs => rw [payload_eta p]
  generalize p[0] = b0, p[1] = b1, p[2] = b2, p[3] = b3, p[4] = b4, p[5] = b5, p[6] = b6, p[7] = b7
  cases order <;> rfl

/-- Settles O9: the call records the bytes above, in the order the open parameter has. -/
theorem serializeFollowsTheIdOrder : Obligations.SerializeFollowsTheIdOrder := by
  intro id n p s
  rw [exec_serialize, serialize_eq]
  rfl

/-- Settles O20: the identifier 0x100 in both orders, then the frame BUILD makes. -/
theorem serialFormsOfABuiltFrame : Obligations.SerialFormsOfABuiltFrame := by
  intro v t c
  rw [build_eq, tagOf_eq, serialize_eq, serialize_eq]
  exact ⟨rfl, rfl⟩

/-! ## The format rows -/

/-- The frame that three data bytes and a status stand for has those bytes in its payload (R52). -/
theorem frameOf_eq (h l t : Byte) (c : StatusCode) :
    frameOf h l t c =
      ⟨Config.egressId, Config.egressLen, #v[h, l, t, tagOf c, 0#8, 0#8, 0#8, 0#8]⟩ := by
  rw [frameOf, build_eq, split16_assemble16_fst, split16_assemble16_snd]

/-- The word the encoder writes for a serial form is SERIALIZE of its frame in that order (R53). -/
theorem frmBytes_eq_serialize (order : IdOrder) (h l t : Byte) (c : StatusCode) :
    frmBytes order h l t c = (serialize (frameOf h l t c) order).toList := by
  rw [frameOf_eq]
  cases order <;> rfl

/-- Settles O19: both calls record the one frame, and SERIALIZE writes it back. -/
theorem serialFramesReadAsLogicalFrames : Obligations.SerialFramesReadAsLogicalFrames := by
  intro h l t c s
  refine ⟨frameOf h l t c, rfl, rfl, ?_, exec_egressFrameBig h l t c s, exec_egressFrameLittle h l t c s, ?_, ?_⟩
  · exact (congrArg EgressFrame.payload (frameOf_eq h l t c)).trans (by cases c <;> rfl)
  · rw [encode, frmBytes_eq_serialize]
  · rw [encode, frmBytes_eq_serialize]

/-- Settles O21: the tag port by the three codes, and the record of each call. -/
theorem tagsReadAsStatusCodes : Obligations.TagsReadAsStatusCodes :=
  fun s => ⟨decodeTag_tagOf .ok, decodeTag_tagOf .warnLowVolt, decodeTag_tagOf .critTemp, exec_tagOk s,
    exec_tagWarnLowVolt s, exec_tagCritTemp s⟩

/-- The five BYTE events of a packet word, as event words (R65, R66). -/
theorem packetEvents_eq (h l t c : Byte) :
    packetEvents #v[Config.sync, h, l, t, c] =
      [.event 0x1AA#11, .event (0x100#11 ||| h.setWidth 11), .event (0x100#11 ||| l.setWidth 11),
        .event (0x100#11 ||| t.setWidth 11), .event (0x100#11 ||| c.setWidth 11)] := rfl

/-- Settles O18: the packet port reads any checksum, and the operation offers the five events. -/
theorem ingestPacketOffersItsFiveBytes : Obligations.IngestPacketOffersItsFiveBytes := by
  intro h l t c s
  have hexec : ∀ s : State, exec (.ingestPacket h l t c) s =
      .next { s with script := packetEvents #v[Config.sync, h, l, t, c] ++ s.script } :=
    exec_ingestPacket h l t c
  simp only [packetEvents_eq] at hexec
  have hi : decode s.st (.word .pkt [0xAA#8, h, l, t, c]) = .ok (.ingestPacket h l t c) := rfl
  exact ⟨hexec s, fun rest hst hscript => (step_of_reading hst hscript hi).trans (hexec _)⟩

/-! ## Fixed values -/

/-- Settles O1: each field evaluated. -/
theorem resetStateHasTheGivenValues : Obligations.ResetStateHasTheGivenValues :=
  ⟨rfl, rfl, rfl, rfl, rfl⟩

/-- Settles O59: each constant evaluated. -/
theorem constantsHaveTheGivenValues : Obligations.ConstantsHaveTheGivenValues :=
  ⟨rfl, rfl, rfl, rfl, rfl, rfl, rfl, rfl, rfl, rfl, rfl, rfl⟩

end Sys2Proof
end

section
/-! The VALIDATE step as a whole-state equation (R95, R96, R135), the two ways into HALTED and RESET, the way out
(R97 to R99, R103), and the step on what is offered first. -/

namespace Sys2Proof

open Machine

/-! ## VALIDATE -/

/-- Settles O26: the window is the packet of the Reading that its bytes assemble to, and the classifier's tag is found
by the two comparisons. -/
theorem validWindowIsReportedAndEmitted : Obligations.ValidWindowIsReportedAndEmitted := by
  intro h l t s hst hsink hbuf
  have hp : decodePacket s.buf = .ok ⟨h ++ l, t⟩ := by
    rw [hbuf]
    exact (decodePacket_of_sync h l t _).trans (if_pos rfl)
  have hframe : build ⟨h ++ l, t⟩ (classify (h ++ l) t) =
      { id := 0x00000100#32
        len := 0x08#8
        payload := #v[h, l, t,
          (if 60 < t.toNat then 2#8 else if h.toNat * 256 + l.toNat < 3100 then 1#8 else 0#8),
          0#8, 0#8, 0#8, 0#8] } := by
    rw [← assemble16_eq_append, build_eq, tagOf_classify, split16_assemble16_fst, split16_assemble16_snd,
      assemble16_toNat]
    rfl
  rw [exec_validate_of_ok hst hp, deliver_of_takes _ s hsink, hframe]

/-- Settles O27: a window that fails either check does not decode, and both errors are taken alike. -/
theorem failedWindowIsDropped : Obligations.FailedWindowIsDropped := by
  intro s hst hfails
  cases hp : decodePacket s.buf with
  | err e => exact exec_validate_of_err hst hp
  | ok r =>
    obtain ⟨hsync, hsum, -⟩ := (decodePacket_eq_ok_iff s.buf r).1 hp
    rw [checksum_eq_add] at hsum
    exact (hfails.elim (· hsync) (· hsum)).elim

/-- While the sink does not take the frame, VALIDATE uses its answer and changes nothing else (R135). -/
theorem exec_validate_of_sink_not_ready {s : State} {r : Reading} (hst : s.st = .validate)
    (hp : decodePacket s.buf = .ok r) (hsink : sinkTakes s = false) :
    exec .validate s = .next { s with sinkReady := s.sinkReady.tail } := by
  rw [exec_validate_of_ok hst hp, deliver_of_not_takes r s hsink]

/-- Settles O28: the operation, and the step, which takes nothing. -/
theorem validWindowWaitsForTheSink : Obligations.ValidWindowWaitsForTheSink := by
  intro r s hst hp hsink
  have hexec := exec_validate_of_sink_not_ready hst hp hsink
  exact ⟨hexec, fun hfirst => (step_of_validate hst hfirst).trans hexec⟩

/-- Settles O29: a step of the stall leaves a state that is still in it, one listed answer fewer. -/
theorem sinkNeverReadyStallsForEver : Obligations.SinkNeverReadyStallsForEver := by
  intro n r s hst hp hlist hafter hfirst
  induction n generalizing s with
  | zero => rfl
  | succ n ih =>
    have hstep : step s = .next { s with sinkReady := s.sinkReady.tail } :=
      (step_of_validate hst hfirst).trans
        (exec_validate_of_sink_not_ready hst hp (sinkTakes_of_never_ready hlist hafter))
    have hrest := ih { s with sinkReady := s.sinkReady.tail } hst hp (fun b hb => hlist b (List.mem_of_mem_tail hb))
      hafter hfirst
    rw [runSteps_succ n hstep, hrest]
    simp only [List.drop_tail]

/-! ## Into HALTED, and out of it -/

/-- Settles O30: an EOS word selects RX_EOS in both reading states. -/
theorem endOfStreamHalts : Obligations.EndOfStreamHalts := by
  intro s hst
  refine ⟨exec_rxEos_of_reading hst, fun w rest hw hscript => ?_⟩
  have hi : decode s.st (.event w) = .ok .rxEos := by
    rcases hst with hst | hst <;> simp [decode, decodeEvent, hst, eventOf_eq_eos hw]
  exact (step_of_reading hst hscript hi).trans (exec_rxEos_of_reading (s := { s with script := rest }) hst)

/-- Settles O31: an ERR word selects RX_ERR in both, whatever its other bits are. -/
theorem transportErrorHalts : Obligations.TransportErrorHalts := by
  intro s hst
  refine ⟨exec_rxErr_of_reading hst, fun w rest hw hscript => ?_⟩
  have hi : decode s.st (.event w) = .ok .rxErr := by
    rcases hst with hst | hst <;> simp [decode, decodeEvent, hst, eventOf_eq_err hw]
  exact (step_of_reading hst hscript hi).trans (exec_rxErr_of_reading (s := { s with script := rest }) hst)

/-- What is no stream input is taken at the head of the script in every state (R103, log 1). -/
theorem nextInput_of_not_stream {s : State} {x : Input} {rest : List Input} (hx : isStream x = false)
    (hscript : s.script = x :: rest) : nextInput s = some (x, rest) := by
  unfold nextInput
  rw [hscript]
  cases s.st <;> simp [hx, firstAside]

/-- Settles O35: RESET is in every state the operation that the RESET input selects. -/
theorem resetAppliesInEveryState : Obligations.ResetAppliesInEveryState := by
  intro s
  refine ⟨exec_reset s, fun rest hscript => ?_⟩
  exact (step_of_nextInput_some (nextInput_of_not_stream rfl hscript) (i := .reset) rfl).trans (exec_reset _)

/-- Settles O36: the stream inputs before the RESET are passed over, and kept. -/
theorem resetPassesRefusedEvents : Obligations.ResetPassesRefusedEvents := by
  intro waiting rest s hst hstream hscript
  have hnext : nextInput s = some (.reset, waiting ++ rest) := by
    rw [nextInput_eq_firstAside hst, hscript, firstAside_stream_append hstream]
    rfl
  exact (step_of_nextInput_some hnext (i := .reset) rfl).trans (exec_reset _)

/-- Only the RESET input selects RESET. -/
theorem eq_reset_of_decode {st : St} {x : Input} (h : decode st x = .ok .reset) : x = .reset := by
  cases x with
  | reset => rfl
  | event w =>
    obtain ⟨w', hw'⟩ := encode_decodeEvent st w
    cases (Except.ok.inj h ▸ hw' : encode .reset = _)
  | word p bytes =>
    rcases encode_of_decodeWord h with hx | ⟨-, _, _, _, _, -, -, hi⟩
    · cases hx
    · cases hi

/-- In HALTED an operation that answers next is RESET, or it leaves the registers and the event outputs alone. -/
theorem exec_of_halted {i : Instr} {s t : State} (hst : s.st = .halted) (h : exec i s = .next t) :
    (i = .reset ∧ t = resetBlock s) ∨
      (t.st = .halted ∧ t.haltCause = s.haltCause ∧ t.cnt = s.cnt ∧ t.buf = s.buf ∧ t.evOut = s.evOut ∧
        t.trace = s.trace) := by
  rcases exec_eq_next h with ⟨r, rfl⟩ | ⟨a, b, c, d, -, rfl⟩ | ⟨-, hne, -⟩ | ⟨b, -, hne, -, -⟩ |
    ⟨b, hlt, -, hne, -, -⟩ | ⟨b, hlt, -, hne, -, -⟩ | ⟨r, -, hne, -, -⟩ | ⟨e, -, hne, -, -⟩ |
    ⟨-, hne, -⟩ | ⟨-, hne, -⟩ | ⟨-, rfl⟩ | ⟨w, -, hne, -⟩ | hreset
  any_goals simp [hst] at hne
  · exact .inr ⟨hst, rfl, rfl, rfl, rfl, rfl⟩
  · exact .inr ⟨hst, rfl, rfl, rfl, rfl, rfl⟩
  · exact .inr ⟨hst, rfl, rfl, rfl, rfl, rfl⟩
  · exact .inl hreset

/-- Settles O50: what answers next in HALTED was selected by an input, and of those RESET alone moves a register. -/
theorem onlyResetLeavesHalted : Obligations.OnlyResetLeavesHalted := by
  intro s t hst hstep
  obtain ⟨i, l, hexec, hfetch⟩ := step_next_cases hstep
  rcases exec_of_halted (s := { s with script := l }) hst hexec with ⟨rfl, rfl⟩ | hkept
  · rcases hfetch with ⟨-, hidle, -⟩ | ⟨x, hx, hi⟩
    · simp [idleInstr, hst] at hidle
    · obtain rfl := eq_reset_of_decode hi
      exact .inl ⟨l, hx, rfl, rfl, rfl⟩
  · exact .inr hkept

/-! ## Selection -/

/-- Settles O32: waiting is the operation where nothing is offered (log 9). -/
theorem noEventHoldsTheState : Obligations.NoEventHoldsTheState := by
  intro s
  refine ⟨exec_rxNone s, fun hst hscript => ?_⟩
  have hidle : idleInstr s = .rxNone := by rcases hst with hst | hst <;> simp [idleInstr, hst]
  rw [step_of_nextInput_none (nextInput_nil hscript), hidle, exec_rxNone]

/-- Settles O37: the step on an input taken, what is taken while reading, and the step without one. -/
theorem stepRunsTheDecodedOperation : Obligations.StepRunsTheDecodedOperation := by
  intro s
  exact ⟨fun x rest i hx hi => step_of_nextInput_some hx hi,
    fun x rest hst hscript => nextInput_of_reading hst hscript, step_of_nextInput_none⟩

end Sys2Proof
end
